-- ==== Sys2Proof/Word.lean ====
section
/-! DEFINITION. The words of the two ports and the bytes of the buffer space (00_scope.md R6, 20_memory.md R60, R69). -/

namespace Sys2Proof

/-- A byte of the buffer space or of a packet (R60, R63). -/
abbrev Byte := BitVec 8

/-- A word of the host command port or of the event port (R69, R90). -/
abbrev Word := BitVec 32

end Sys2Proof
end

