-- ==== Sys2Proof/Config.lean ====
section
/-! DEFINITION. The implementation parameters of the block (00_scope.md R5) and its fixed constants.
R5: "The model takes every parameter of the table below as an argument." A parameter set is one value of
`Params`; its reference values and the constraints of R5 are in Machine/Reference.lean. -/

namespace Sys2Proof

/-- What one received return-channel byte decodes to (R255): a 6-bit value or a special code. -/
inductive Symbol where
  | data (v : BitVec 6)
  | ack
  | nack
  | busy
  | invalid
  deriving DecidableEq, Repr

/-- The parameters of R5, one field for each row that is not a constant. Times are in microseconds,
widths in bits, capacities in bytes. -/
structure Params where
  /-- `TICKS_PER_US` -/
  ticksPerUs : Nat
  /-- `RX_TICKS_PER_US` -/
  rxTicksPerUs : Nat
  /-- `ARR_MAX` -/
  arrMax : Nat
  /-- `CAP_BITS` -/
  capBits : Nat
  /-- `DAC_BITS` -/
  dacBits : Nat
  /-- `PKT_CAPACITY` -/
  pktCapacity : Nat
  /-- `RX_CAPACITY` -/
  rxCapacity : Nat
  /-- `TX_PREAMBLE_MIN` -/
  txPreambleMin : Nat
  /-- `RX_PREAMBLE_MIN` -/
  rxPreambleMin : Nat
  /-- `BIT1_MIN_US` -/
  bit1MinUs : Nat
  /-- `BIT1_MAX_US` -/
  bit1MaxUs : Nat
  /-- `BIT0_MIN_US` -/
  bit0MinUs : Nat
  /-- `RX_ONE_MIN_US` -/
  rxOneMinUs : Nat
  /-- `RX_ONE_MAX_US` -/
  rxOneMaxUs : Nat
  /-- `RX_ZERO_MIN_US` -/
  rxZeroMinUs : Nat
  /-- `RX_ZERO_MAX_US` -/
  rxZeroMaxUs : Nat
  /-- `IDLE_PACKET` -/
  idlePacket : List Byte
  /-- `D_BIDI_START_US` -/
  dBidiStartUs : Nat
  /-- `D_BIDI_CH1_US` -/
  dBidiCh1Us : Nat
  /-- `D_BIDI_CH2_US` -/
  dBidiCh2Us : Nat
  /-- `D_BIDI_END_US` -/
  dBidiEndUs : Nat
  /-- `OVR_P_FIRST` -/
  ovrPFirst : Bool
  /-- `RX_BIDI_CH1_DELAY_US` -/
  rxBidiCh1DelayUs : Nat
  /-- `RX_BIDI_CH2_DELAY_US` -/
  rxBidiCh2DelayUs : Nat
  /-- `RC_DECODE`: the bytes that decode to something, each with what it decodes to; "every byte not in
  the table is INVALID" (R255), so any table is total on 0..255. -/
  rcTable : List (Byte × Symbol)
  /-- `DG_SYMS`: the defined identifiers, each with its number of symbols; any other is `none` (R259). -/
  dgSyms : List (BitVec 4 × Nat)
  deriving DecidableEq, Repr

/-- `CH1_BYTES` (R5, D49). -/
abbrev ch1Bytes : Nat := 2

/-- `CH2_BYTES` (R5, D49). -/
abbrev ch2Bytes : Nat := 6

/-- `OVR_POSITIONS` (R5). -/
abbrev ovrPositions : Nat := 64

/-- `NP_MAX` (R5, D3). -/
abbrev npMax : Nat := 255

end Sys2Proof
end

