-- ==== Sys2Proof/Machine/Reference.lean ====
section
/-! DEFINITION. The reference value of every parameter and the constraints a parameter set must meet
(00_scope.md R5), with the reference tables of 43_bidi.md R256 and R259. -/

namespace Sys2Proof

/-- R256: the byte that encodes the 6-bit value `v` stands at place `v`; one row of the table a line. -/
def rcDataBytes : List Byte :=
  [0xAC, 0xAA, 0xA9, 0xA5, 0xA3, 0xA6, 0x9C, 0x9A, 0x99, 0x95, 0x93, 0x96, 0x8E, 0x8D, 0x8B, 0xB1] ++
  [0xB2, 0xB4, 0xB8, 0x74, 0x72, 0x6C, 0x6A, 0x69, 0x65, 0x63, 0x66, 0x5C, 0x5A, 0x59, 0x55, 0x53] ++
  [0x56, 0x4E, 0x4D, 0x4B, 0x47, 0x71, 0xE8, 0xE4, 0xE2, 0xD1, 0xC9, 0xC5, 0xD8, 0xD4, 0xD2, 0xCA] ++
  [0xC6, 0xCC, 0x78, 0x17, 0x1B, 0x1D, 0x1E, 0x2E, 0x36, 0x3A, 0x27, 0x2B, 0x2D, 0x35, 0x39, 0x33]

/-- R256: the special bytes. 0x87 and 0xC3 are in no table, so INVALID. -/
def rcSpecialBytes : List (Byte × Symbol) :=
  [(0x0F, .ack), (0xF0, .ack), (0x3C, .nack), (0xE1, .busy)]

/-- R256: the reference `RC_DECODE`, the RailCom 4-of-8 code. -/
def rcReference : List (Byte × Symbol) :=
  (rcDataBytes.zipIdx.map fun e => (e.1, Symbol.data (BitVec.ofNat 6 e.2))) ++ rcSpecialBytes

/-- R259: the reference `DG_SYMS`. -/
def dgReference : List (BitVec 4 × Nat) :=
  [(0, 2), (3, 3), (7, 3), (8, 6), (9, 6), (10, 6), (11, 6)]

/-- R5: the reference value of each parameter. -/
def Params.reference : Params where
  ticksPerUs := 1
  rxTicksPerUs := 1
  arrMax := 0xFFFF
  capBits := 32
  dacBits := 12
  pktCapacity := 18
  rxCapacity := 18
  txPreambleMin := 14
  rxPreambleMin := 10
  bit1MinUs := 52
  bit1MaxUs := 64
  bit0MinUs := 90
  rxOneMinUs := 52
  rxOneMaxUs := 64
  rxZeroMinUs := 90
  rxZeroMaxUs := 10000
  idlePacket := [0xFF, 0x00, 0xFF]
  dBidiStartUs := 26
  dBidiCh1Us := 167
  dBidiCh2Us := 295
  dBidiEndUs := 58
  ovrPFirst := true
  rxBidiCh1DelayUs := 80
  rxBidiCh2DelayUs := 193
  rcTable := rcReference
  dgSyms := dgReference

/-- R5: "The constraints column must hold for any argument a model accepts". It sets no lower bound on `RX_ONE_MIN_US`, so
0 is accepted (log 20). -/
def Params.valid (p : Params) : Bool :=
  decide
    (1 ≤ p.ticksPerUs ∧ 1 ≤ p.rxTicksPerUs
    ∧ 1 ≤ p.arrMax ∧ p.arrMax ≤ 2 ^ 32 - 1
    ∧ (p.capBits = 16 ∨ p.capBits = 32)
    ∧ 1 ≤ p.dacBits ∧ p.dacBits ≤ 16
    ∧ 18 ≤ p.pktCapacity ∧ p.pktCapacity ≤ 32
    ∧ 18 ≤ p.rxCapacity ∧ p.rxCapacity ≤ 32
    ∧ 1 ≤ p.txPreambleMin ∧ p.txPreambleMin ≤ 255
    ∧ 1 ≤ p.rxPreambleMin ∧ p.rxPreambleMin ≤ 127
    ∧ p.bit1MinUs ≤ p.bit1MaxUs ∧ p.bit1MaxUs < p.bit0MinUs
    ∧ p.rxOneMinUs ≤ p.rxOneMaxUs ∧ p.rxOneMaxUs < p.rxZeroMinUs ∧ p.rxZeroMinUs ≤ p.rxZeroMaxUs
    ∧ 1 ≤ p.idlePacket.length ∧ p.idlePacket.length ≤ p.pktCapacity
    ∧ 1 ≤ p.dBidiStartUs ∧ 1 ≤ p.dBidiCh1Us ∧ 1 ≤ p.dBidiCh2Us ∧ 1 ≤ p.dBidiEndUs
    ∧ p.rxBidiCh1DelayUs < p.rxBidiCh2DelayUs
    ∧ ∀ e ∈ p.dgSyms, 2 ≤ e.2 ∧ e.2 ≤ 6)

end Sys2Proof
end

