-- ==== Sys2Proof/Syntax.lean ====
section
/-! DEFINITION. The sixteen operations of the block (00_scope.md R4, spec/opcode_table.json), one
constructor a row, with their operands; the two ports; what the decoder answers. -/

namespace Sys2Proof

/-- R90: the two input ports. -/
inductive Port where
  | host
  | event
  deriving DecidableEq, Repr

/-- R303: which delta SET_OVR_DELTA writes (`sel` 0 = deltaP, 1 = deltaN). -/
inductive OvrSel where
  | p
  | n
  deriving DecidableEq, Repr

/-- The operations, with the operands of R94-R101. -/
inductive Instr where
  /-- INIT_TX (R158) -/
  | initTx (np : Byte) (bidi invert trig : Bool) (bit1Us bit0Us : BitVec 16)
  /-- PACKET (R159); `len` is the number of bytes -/
  | packet (bytes : List Byte)
  /-- START (R160) -/
  | start
  /-- STOP (R161) -/
  | stop
  /-- SET_OVR_MASK (R302) -/
  | setOvrMask (mask : BitVec 64)
  /-- SET_OVR_DELTA (R303) -/
  | setOvrDelta (sel : OvrSel) (delta : BitVec 32)
  /-- SET_BIDI_THRESHOLD (R250); the `B` field, of which `DAC_BITS` bits may be set -/
  | setBidiThreshold (value : BitVec 16)
  /-- RX_INIT (R201) -/
  | rxInit (bidiEn : Bool)
  /-- RX_TAKE (R208) -/
  | rxTake
  /-- BIDI_TAKE (R254) -/
  | bidiTake
  /-- READ_REG (R320) -/
  | readReg (n : Byte)
  /-- READ_BUF (R321) -/
  | readBuf (a : Byte)
  /-- TX_UPDATE (R162) -/
  | txUpdate
  /-- RX_CAPTURE (R202); the payload word, of which `CAP_BITS` bits may be set -/
  | rxCapture (ts : Word)
  /-- BIDI_BYTE (R252) -/
  | bidiByte (b : Byte)
  /-- RX_BIDI_FIRE (R209) -/
  | rxBidiFire
  deriving DecidableEq, Repr

/-- The rows of the opcode map (R92), without operands. -/
inductive Op where
  | initTx | packet | start | stop | setOvrMask | setOvrDelta | setBidiThreshold | rxInit
  | rxTake | bidiTake | readReg | readBuf | txUpdate | rxCapture | bidiByte | rxBidiFire
  deriving DecidableEq, Repr

/-- What the decoder of R105 answers for the words waiting on a port. -/
inductive Decoded where
  /-- a command with its operands, and how many words it takes -/
  | cmd (i : Instr) (n : Nat)
  /-- ILLEGAL_OPCODE: only the header word is consumed (R104) -/
  | illegalOpcode
  /-- FIELD_INVALID: a reserved bit is set; `n` words are consumed (R103) -/
  | fieldInvalid (n : Nat)
  /-- the port does not hold all the words of the transaction yet (log 3) -/
  | incomplete
  deriving DecidableEq, Repr

end Sys2Proof
end

