-- ==== Sys2Proof/WellFormed.lean ====
section
/-! DEFINITION. Which terms of `Instr` stand for a transaction: the operands fit the fields that R94-R101
give them. The other constructors' operand types hold exactly the values their fields can hold. -/

namespace Sys2Proof

/-- PACKET's `len` is 8 bits (R95); SET_BIDI_THRESHOLD's value has `DAC_BITS` bits (R98); RX_CAPTURE's
timestamp has `CAP_BITS` bits (R101). -/
def Instr.wf (p : Params) : Instr → Bool
  | .packet bytes => decide (bytes.length ≤ 255)
  | .setBidiThreshold value => decide (value.toNat < 2 ^ p.dacBits)
  | .rxCapture ts => decide (ts.toNat < 2 ^ p.capBits)
  | .initTx _ _ _ _ _ _ => true
  | .start => true
  | .stop => true
  | .setOvrMask _ => true
  | .setOvrDelta _ _ => true
  | .rxInit _ => true
  | .rxTake => true
  | .bidiTake => true
  | .readReg _ => true
  | .readBuf _ => true
  | .txUpdate => true
  | .bidiByte _ => true
  | .rxBidiFire => true

end Sys2Proof
end

