-- ==== Sys2Proof/Decode.lean ====
section
/-! DEFINITION. The decoder of 30_encoding.md R105, total on any list of words, and after it the encoder,
both written from the opcode map (R92), the match and mask table (R93) and the operand rules (R94-R101).
The packing of bytes into words (R68, R95) is here too: the responses use it. -/

namespace Sys2Proof

/-! ### Header fields (R91) and byte packing (R68) -/

/-- R91: `OPC = w0[7:0]`. -/
def opcField (w : Word) : Byte := w.extractLsb' 0 8

/-- R91: `A = w0[15:8]`. -/
def aField (w : Word) : Byte := w.extractLsb' 8 8

/-- R91: `B = w0[31:16]`. -/
def bField (w : Word) : BitVec 16 := w.extractLsb' 16 16

/-- R91: the header word with these three fields. -/
def headerWord (opc a : Byte) (b : BitVec 16) : Word := b ++ a ++ opc

/-- R68: four bytes in a word, byte 0 in the low bits. -/
def wordOfBytes (b0 b1 b2 b3 : Byte) : Word := b3 ++ b2 ++ b1 ++ b0

/-- R68: byte `i` of a sequence travels in word `i div 4`, bits `[8*(i mod 4)+7 : 8*(i mod 4)]`; the unused
high bytes of the last word are 0 (R95, R102). -/
def packBytes : List Byte → List Word
  | [] => []
  | [b0] => [wordOfBytes b0 0 0 0]
  | [b0, b1] => [wordOfBytes b0 b1 0 0]
  | [b0, b1, b2] => [wordOfBytes b0 b1 b2 0]
  | b0 :: b1 :: b2 :: b3 :: rest => wordOfBytes b0 b1 b2 b3 :: packBytes rest

/-- R68: the four bytes of a word, low byte first. -/
def bytesOfWord (w : Word) : List Byte :=
  [w.extractLsb' 0 8, w.extractLsb' 8 8, w.extractLsb' 16 8, w.extractLsb' 24 8]

/-- R68: the bytes of a sequence of words. -/
def unpackBytes (ws : List Word) : List Byte := ws.flatMap bytesOfWord

/-! ### The opcode map -/

/-- R92: the opcode byte of each row. -/
def Op.code : Op → Byte
  | .initTx => 0x01
  | .packet => 0x02
  | .start => 0x03
  | .stop => 0x04
  | .setOvrMask => 0x05
  | .setOvrDelta => 0x06
  | .setBidiThreshold => 0x07
  | .rxInit => 0x08
  | .rxTake => 0x09
  | .bidiTake => 0x0A
  | .readReg => 0x0B
  | .readBuf => 0x0C
  | .txUpdate => 0x80
  | .rxCapture => 0x81
  | .bidiByte => 0x82
  | .rxBidiFire => 0x83

/-- R92: the port of each row. -/
def Op.port : Op → Port
  | .initTx | .packet | .start | .stop | .setOvrMask | .setOvrDelta | .setBidiThreshold | .rxInit
  | .rxTake | .bidiTake | .readReg | .readBuf => .host
  | .txUpdate | .rxCapture | .bidiByte | .rxBidiFire => .event

/-- R92: the rows. -/
def Op.all : List Op :=
  [.initTx, .packet, .start, .stop, .setOvrMask, .setOvrDelta, .setBidiThreshold, .rxInit] ++
  [.rxTake, .bidiTake, .readReg, .readBuf, .txUpdate, .rxCapture, .bidiByte, .rxBidiFire]

/-- R104, R105: the row that a header word on a port selects, if any. -/
def Op.ofHeader (port : Port) (w : Word) : Option Op :=
  Op.all.find? fun op => op.code == opcField w && op.port == port

/-- R92, R105: the number of words of a transaction, from the header alone (`a` is the header's `A`). -/
def Op.words (op : Op) (a : Byte) : Nat :=
  match op with
  | .initTx => 2
  | .packet => 1 + (a.toNat + 3) / 4
  | .setOvrMask => 3
  | .setOvrDelta => 2
  | .rxCapture => 2
  | .start | .stop | .setBidiThreshold | .rxInit | .rxTake | .bidiTake | .readReg | .readBuf
  | .txUpdate | .bidiByte | .rxBidiFire => 1

/-- R93: the header mask of each row; a bit outside it is an operand bit. -/
def Op.mask (p : Params) : Op → Word
  | .initTx => 0xFFF800FF
  | .packet => 0xFFFF00FF
  | .start => 0xFFFFFFFF
  | .stop => 0xFFFFFFFF
  | .setOvrMask => 0xFFFFFFFF
  | .setOvrDelta => 0xFFFFFEFF
  | .setBidiThreshold => BitVec.ofNat 32 (0xFFFF * 2 ^ (16 + p.dacBits)) ||| 0x0000FFFF
  | .rxInit => 0xFFFFFEFF
  | .rxTake => 0xFFFFFFFF
  | .bidiTake => 0xFFFFFFFF
  | .readReg => 0xFFFF00FF
  | .readBuf => 0xFFFF00FF
  | .txUpdate => 0xFFFFFFFF
  | .rxCapture => 0xFFFFFFFF
  | .bidiByte => 0xFFFF00FF
  | .rxBidiFire => 0xFFFFFFFF

/-- R93: the header match of each row. -/
def Op.matchWord (op : Op) : Word := headerWord op.code 0 0

/-- R93, R103: a header bit of the row's mask differs from the row's match. -/
def headerReservedSet (p : Params) (op : Op) (w0 : Word) : Bool :=
  (w0 &&& op.mask p) != op.matchWord

/-- R95, R101, R103: a padding byte of PACKET's last payload word, or a bit of RX_CAPTURE's `W1[31:CAP_BITS]`,
is not 0. -/
def payloadReservedSet (p : Params) (op : Op) (w0 : Word) (payload : List Word) : Bool :=
  match op with
  | .packet => ((unpackBytes payload).drop (aField w0).toNat).any fun b => b != 0
  | .rxCapture => decide (2 ^ p.capBits ≤ (payload.getD 0 0).toNat)
  | .initTx | .start | .stop | .setOvrMask | .setOvrDelta | .setBidiThreshold | .rxInit | .rxTake
  | .bidiTake | .readReg | .readBuf | .txUpdate | .bidiByte | .rxBidiFire => false

/-- R94-R101: the operands, from the header word and the payload words. -/
def Op.operands (op : Op) (w0 : Word) (payload : List Word) : Instr :=
  match op with
  | .initTx =>
    .initTx (aField w0) (w0.getLsbD 16) (w0.getLsbD 17) (w0.getLsbD 18)
      ((payload.getD 0 0).extractLsb' 0 16) ((payload.getD 0 0).extractLsb' 16 16)
  | .packet => .packet ((unpackBytes payload).take (aField w0).toNat)
  | .start => .start
  | .stop => .stop
  | .setOvrMask => .setOvrMask (payload.getD 1 0 ++ payload.getD 0 0)
  | .setOvrDelta => .setOvrDelta (if w0.getLsbD 8 then .n else .p) (payload.getD 0 0)
  | .setBidiThreshold => .setBidiThreshold (bField w0)
  | .rxInit => .rxInit (w0.getLsbD 8)
  | .rxTake => .rxTake
  | .bidiTake => .bidiTake
  | .readReg => .readReg (aField w0)
  | .readBuf => .readBuf (aField w0)
  | .txUpdate => .txUpdate
  | .rxCapture => .rxCapture (payload.getD 0 0)
  | .bidiByte => .bidiByte (aField w0)
  | .rxBidiFire => .rxBidiFire

/-- R105: the decoder. -/
def decode (p : Params) (port : Port) (ws : List Word) : Decoded :=
  match ws with
  | [] => .incomplete
  | w0 :: rest =>
    match Op.ofHeader port w0 with
    | none => .illegalOpcode
    | some op =>
      let n := op.words (aField w0)
      if rest.length + 1 < n then .incomplete
      else
        let payload := rest.take (n - 1)
        if headerReservedSet p op w0 || payloadReservedSet p op w0 payload then .fieldInvalid n
        else .cmd (op.operands w0 payload) n

/-! ### The encoder (R107) -/

/-- The row of each constructor. -/
def Instr.op : Instr → Op
  | .initTx _ _ _ _ _ _ => .initTx
  | .packet _ => .packet
  | .start => .start
  | .stop => .stop
  | .setOvrMask _ => .setOvrMask
  | .setOvrDelta _ _ => .setOvrDelta
  | .setBidiThreshold _ => .setBidiThreshold
  | .rxInit _ => .rxInit
  | .rxTake => .rxTake
  | .bidiTake => .bidiTake
  | .readReg _ => .readReg
  | .readBuf _ => .readBuf
  | .txUpdate => .txUpdate
  | .rxCapture _ => .rxCapture
  | .bidiByte _ => .bidiByte
  | .rxBidiFire => .rxBidiFire

/-- The port a transaction is given on (R92). -/
def Instr.port (i : Instr) : Port := i.op.port

/-- The header's `A` field of a transaction (R94-R101). -/
def Instr.aOperand : Instr → Byte
  | .initTx np _ _ _ _ _ => np
  | .packet bytes => BitVec.ofNat 8 bytes.length
  | .setOvrDelta .p _ => 0
  | .setOvrDelta .n _ => 1
  | .rxInit bidiEn => if bidiEn then 1 else 0
  | .readReg n => n
  | .readBuf a => a
  | .bidiByte b => b
  | .start | .stop | .setOvrMask _ | .setBidiThreshold _ | .rxTake | .bidiTake | .txUpdate
  | .rxCapture _ | .rxBidiFire => 0

/-- The header's `B` field of a transaction (R94, R98). -/
def Instr.bOperand : Instr → BitVec 16
  | .initTx _ bidi invert trig _ _ =>
    0#13 ++ BitVec.ofBool trig ++ BitVec.ofBool invert ++ BitVec.ofBool bidi
  | .setBidiThreshold value => value
  | .packet _ | .start | .stop | .setOvrMask _ | .setOvrDelta _ _ | .rxInit _ | .rxTake | .bidiTake
  | .readReg _ | .readBuf _ | .txUpdate | .rxCapture _ | .bidiByte _ | .rxBidiFire => 0

/-- The payload words of a transaction (R94-R97, R101). -/
def Instr.payload : Instr → List Word
  | .initTx _ _ _ _ bit1Us bit0Us => [bit0Us ++ bit1Us]
  | .packet bytes => packBytes bytes
  | .setOvrMask mask => [mask.extractLsb' 0 32, mask.extractLsb' 32 32]
  | .setOvrDelta _ delta => [delta]
  | .rxCapture ts => [ts]
  | .start | .stop | .setBidiThreshold _ | .rxInit _ | .rxTake | .bidiTake | .readReg _ | .readBuf _
  | .txUpdate | .bidiByte _ | .rxBidiFire => []

/-- R107: the words of a transaction. -/
def encode (i : Instr) : List Word :=
  headerWord i.op.code i.aOperand i.bOperand :: i.payload

/-! ### Words as the opcode table numbers them -/

/-- The port on which an opcode is given: the event port for the four event opcodes (R92). -/
def headerPort (w0 : Word) : Port :=
  if (Op.ofHeader .event w0).isSome then .event else .host

/-- R105: the length of a transaction, from its header alone; 1 for an illegal opcode. -/
def headerLength (w0 : Word) : Nat :=
  match Op.ofHeader (headerPort w0) w0 with
  | some op => op.words (aField w0)
  | none => 1

/-- The words of the transaction whose bits are the low `nbits` bits of `w`, the header in bits 31..0, each
payload word in the next 32 bits, bits above `nbits` being 0. -/
def tableWords (nbits w : Nat) : List Word :=
  let v := w % 2 ^ nbits
  (List.range (headerLength (BitVec.ofNat 32 v))).map fun k => BitVec.ofNat 32 (v / 2 ^ (32 * k))

/-- The port of that transaction. -/
def tablePort (nbits w : Nat) : Port := headerPort (BitVec.ofNat 32 (w % 2 ^ nbits))

/-- The instruction the decoder reads from the words of `tableWords`, with the reference parameters. -/
def decodeTableWord (nbits w : Nat) : Option Instr :=
  match decode Params.reference (tablePort nbits w) (tableWords nbits w) with
  | .cmd i _ => some i
  | .illegalOpcode => none
  | .fieldInvalid _ => none
  | .incomplete => none

end Sys2Proof
end

