-- ==== Sys2Proof/Machine/State.lean ====
section
/-! DEFINITION. The state of the block (10_state.md), plain data, and its reset value
(70_reset_and_hazards.md R370). Field groups follow 10_state.md R20. -/

namespace Sys2Proof.Machine

/-- R21: the transmit engine's run state. -/
inductive RunState where
  | uninit
  | stopped
  | running
  | halting
  deriving DecidableEq, Repr

/-- R24: the phase of the transmit cursor. -/
inductive Phase where
  | preamble
  | data
  | bidiStart
  | bidiCh1
  | bidiCh2
  | bidiEnd
  deriving DecidableEq, Repr

/-- A return channel that is selected, or none: the pin `RC_CH` (R29) and the window `win` (R37, R212). -/
inductive Channel where
  | none
  | ch1
  | ch2
  deriving DecidableEq, Repr

/-- R34: the receiver's framing state. -/
inductive RxState where
  | hunt
  | start2
  | data
  deriving DecidableEq, Repr

/-- R34: the class of the first half of the bit in progress. -/
inductive FirstHalf where
  | none
  | one
  | zero
  deriving DecidableEq, Repr

/-- R37: the decoder-side one-shot. -/
inductive OneShot where
  | idle
  | armedCh1
  | armedCh2
  deriving DecidableEq, Repr

/-- R22: the stored `Timings`. -/
structure TxCfg where
  np : Byte
  bit1Us : BitVec 16
  bit0Us : BitVec 16
  bit1Ticks : Word
  bit0Ticks : Word
  bidi : Bool
  invert : Bool
  trig : Bool
  deriving DecidableEq, Repr

/-- R24: the transmit cursor, the slot the next TX_UPDATE outputs; `half` is true for `half = 1`. -/
structure Cursor where
  phase : Phase
  byteIdx : Byte
  bitIdx : Byte
  half : Bool
  deriving DecidableEq, Repr

/-- R29: the output pins. -/
structure Pins where
  trackP : Bool
  trackN : Bool
  bidiEn : Bool
  brakeEn : Bool
  dacEn : Bool
  trigger : Bool
  rcCh : Channel
  deriving DecidableEq, Repr

/-- R21-R29: the transmit engine. -/
structure Tx where
  run : RunState
  cfg : TxCfg
  stopReq : Bool
  cursor : Cursor
  pol : Bool
  mboxFull : Bool
  mboxLen : Byte
  actLen : Byte
  arrActive : Word
  arrPreload : Word
  pins : Pins
  deriving DecidableEq, Repr

/-- R30: the zero-bit override values; `dP` and `dN` are read as two's complement. -/
structure Ovr where
  mask : BitVec 64
  dP : BitVec 32
  dN : BitVec 32
  deriving DecidableEq, Repr

/-- R31-R33: the BiDi threshold and the counts and flag of the transmit-side return channel.
The threshold has `DAC_BITS` bits; the field is 16 bits wide, the most `DAC_BITS` may be (log 8). -/
structure Bidi where
  threshold : BitVec 16
  n1 : BitVec 4
  n2 : BitVec 4
  sn1 : BitVec 4
  sn2 : BitVec 4
  ready : Bool
  deriving DecidableEq, Repr

/-- R34-R37: the receive engine and the decoder-side cutout controller. Timestamps have `CAP_BITS` bits in
fields of 32 bits (log 8). -/
structure Rx where
  st : RxState
  h : Byte
  first : FirstHalf
  bitcnt : BitVec 4
  acc : Byte
  n : Byte
  tsValid : Bool
  lastTs : Word
  ready : Bool
  readyLen : Byte
  bidiEn : Bool
  os : OneShot
  osRef : Word
  win : Channel
  deriving DecidableEq, Repr

/-- The buffer space (R60): the bytes that are not 0, by rising address. An address that is not listed
reads as 0, the reset contents (R370). -/
structure Memory where
  cells : List Host.Cell
  deriving DecidableEq, Repr

/-- The two input ports (R90): the words waiting on each, and whose transaction the next steps are
(R345; log 1). -/
structure Ports where
  hostIn : List Word
  eventIn : List Word
  turns : List Port
  deriving DecidableEq, Repr

/-- R331: the fault codes of the FAULT register. Taking one is a next state (R330; log 7). -/
inductive FaultCode where
  | illegalOpcode
  | fieldInvalid
  | notInitialized
  | busy
  | configInvalid
  | packetLength
  | reloadRange
  deriving DecidableEq, Repr

/-- R8: what a step was: a next state, a fault with its code, or no step; `waiting` is a step in which no
transaction was complete (log 3). -/
inductive StepKind where
  | waiting
  | done
  | faulted (c : FaultCode)
  | noStep
  deriving DecidableEq, Repr

/-- What the last step gave back: its kind, the response words (R102) and the reload value that goes to the
timer (R102, R162). The model's own field (log 6). -/
structure Outputs where
  kind : StepKind
  resp : List Word
  reload : Option Word
  deriving DecidableEq, Repr

/-- The state: the parameters of the instance (R5; log 4), the groups of R20, the buffer space (R60), the
ports (R90; log 1) and the last step's outputs (log 6). -/
structure State where
  params : Params
  tx : Tx
  ovr : Ovr
  bidi : Bidi
  rx : Rx
  fault : Byte
  mem : Memory
  ports : Ports
  out : Outputs
  deriving DecidableEq, Repr

/-- The reasons the MODEL stops with a fault. Neither is a fault of the block: each is raised only in states
that no run reaches, where a rule of the spec names something that does not exist (log 10). -/
inductive Fault where
  /-- raised by TX_UPDATE, RX_CAPTURE and RX_TAKE when a rule would read or write a buffer address above
  0x8F, for which R61 defines nothing; safe: the spec gives no effect -/
  | unmappedBuffer
  /-- raised by TX_UPDATE when a Data slot's `bit_idx` is above 8, so that `bitval` (R151) would name a bit
  below bit 0; safe: the spec gives no effect -/
  | noSuchBit
  deriving DecidableEq, Repr

/-- The reasons the MODEL refuses to step. -/
inductive Refusal where
  /-- raised by an arm of `exec` whose instruction has no meaning; no arm of this model does; safe -/
  | notModelled (mnemonic : String)
  /-- raised by `step` when the parameter set breaks a constraint of R5 ("a model refuses an argument set
  that breaks one"); safe -/
  | invalidParams
  deriving DecidableEq, Repr

/-- R29, R156: every pin 0. -/
def Pins.off : Pins where
  trackP := false
  trackN := false
  bidiEn := false
  brakeEn := false
  dacEn := false
  trigger := false
  rcCh := .none

/-- R158, R160: the first slot of a frame, `(Preamble, 0, 0, 0)`. -/
def Cursor.first : Cursor where
  phase := .preamble
  byteIdx := 0
  bitIdx := 0
  half := false

/-- R370: the transmit engine after reset. -/
def Tx.reset : Tx where
  run := .uninit
  cfg := { np := 0, bit1Us := 0, bit0Us := 0, bit1Ticks := 0, bit0Ticks := 0
           bidi := false, invert := false, trig := false }
  stopReq := false
  cursor := .first
  pol := false
  mboxFull := false
  mboxLen := 0
  actLen := 0
  arrActive := 0
  arrPreload := 0
  pins := .off

/-- R370: the receive engine after reset. -/
def Rx.reset : Rx where
  st := .hunt
  h := 0
  first := .none
  bitcnt := 0
  acc := 0
  n := 0
  tsValid := false
  lastTs := 0
  ready := false
  readyLen := 0
  bidiEn := false
  os := .idle
  osRef := 0
  win := .none

/-- R370: reset of an instance with these parameters. Nothing waits on the ports, and no step has given
anything yet (log 1, log 6). -/
def State.resetWith (p : Params) : State where
  params := p
  tx := .reset
  ovr := { mask := 0, dP := 0, dN := 0 }
  bidi := { threshold := 0, n1 := 0, n2 := 0, sn1 := 0, sn2 := 0, ready := false }
  rx := .reset
  fault := 0
  mem := { cells := [] }
  ports := { hostIn := [], eventIn := [], turns := [] }
  out := { kind := .waiting, resp := [], reload := none }

/-- R370, with the reference value of every parameter (log 4). -/
def State.reset : State := State.resetWith .reference

end Sys2Proof.Machine
end

