-- ==== Sys2Proof/Machine/Ops.lean ====
section
/-! DEFINITION. The operations shared by the instructions: the buffer space (20_memory.md R60, R61), the
outcome of a step (00_scope.md R7, R8; 60_exceptions.md R330, R340), and the words of the ports
(30_encoding.md R90, R105). -/

namespace Sys2Proof.Machine

/-! ### The buffer space -/

/-- R60: the highest mapped address. -/
def bufferTop : Nat := 0x8F

/-- R60: "Addresses 0x90-0xFF are unmapped." -/
def mapped (a : Nat) : Bool := decide (a ≤ bufferTop)

/-- The value listed for an address, 0 if none is (R370). -/
def readCells : List Host.Cell → Nat → Byte
  | [], _ => 0#8
  | c :: rest, a => if c.1 = a then c.2 else readCells rest a

/-- The cells with the value at one address replaced: rising addresses stay rising, and a 0 is not listed. -/
def writeCells : List Host.Cell → Nat → Byte → List Host.Cell
  | [], a, v => if v = 0#8 then [] else [(a, v)]
  | c :: rest, a, v =>
    if c.1 < a then c :: writeCells rest a v
    else if c.1 = a then (if v = 0#8 then rest else (a, v) :: rest)
    else (if v = 0#8 then c :: rest else (a, v) :: c :: rest)

/-- R61: `MemRead(a, 1)`. -/
def Memory.read (m : Memory) (a : Nat) : Byte := readCells m.cells a

/-- R61: `MemWrite(a, 1, v)`. Nothing is stored at an unmapped address; no run names one (log 10). -/
def Memory.write (m : Memory) (a : Nat) (v : Byte) : Memory :=
  if mapped a then { cells := writeCells m.cells a v } else m

/-- `for i in 0..len-1: MemWrite(base + i, 1, f i)`. -/
def Memory.fill (m : Memory) (base : Nat) : (len : Nat) → (f : Nat → Byte) → Memory
  | 0, _ => m
  | len + 1, f => (m.fill base len f).write (base + len) (f len)

/-- Every byte of `base .. base + len - 1` set to 0. -/
def Memory.clear (m : Memory) (base len : Nat) : Memory := m.fill base len fun _ => 0#8

/-- `for i in 0..len-1: MemWrite(dst + i, 1, MemRead(src + i, 1))`, for regions that do not overlap. -/
def Memory.copy (m : Memory) (src dst len : Nat) : Memory := m.fill dst len fun i => m.read (src + i)

/-- The bytes at `base .. base + len - 1`. -/
def Memory.bytes (m : Memory) (base len : Nat) : List Byte :=
  (List.range len).map fun i => m.read (base + i)

/-- The canonical form: addresses strictly rising and mapped, no entry 0. -/
def Memory.wf (m : Memory) : Bool :=
  decide (m.cells.Pairwise fun c d => c.1 < d.1) && m.cells.all fun c => mapped c.1 && c.2 != 0#8

/-- R60: the region MBOX. -/
def mboxBase : Nat := 0x00
/-- R60: the region ACT. -/
def actBase : Nat := 0x20
/-- R60: the region RXB. -/
def rxbBase : Nat := 0x40
/-- R60: the region RXR. -/
def rxrBase : Nat := 0x60
/-- R60: the region BRAW. -/
def brawBase : Nat := 0x80
/-- R60: the region BSNAP. -/
def bsnapBase : Nat := 0x88
/-- R60: the size of a packet region. -/
def packetRegion : Nat := 32
/-- R60: the size of a return-channel region. -/
def bidiRegion : Nat := 8

/-! ### The outcome of a step -/

/-- R331: the number of each fault code. -/
def FaultCode.code : FaultCode → Byte
  | .illegalOpcode => 1
  | .fieldInvalid => 2
  | .notInitialized => 3
  | .busy => 4
  | .configInvalid => 5
  | .packetLength => 6
  | .reloadRange => 7

/-- A step that is done, with no response and no reload. -/
def finish (s : State) : State := { s with out := { kind := .done, resp := [], reload := none } }

/-- R7: `respond(w0, w1, ...)`, a step that is done. -/
def respond (ws : List Word) (s : State) : State :=
  { s with out := { kind := .done, resp := ws, reload := none } }

/-- R102: a TX_UPDATE that is done and gives the timer a reload value. -/
def giveReload (r : Word) (s : State) : State :=
  { s with out := { kind := .done, resp := [], reload := some r } }

/-- R7, R8: "the agent has no enabled step in this state"; the block is unchanged (log 2). -/
def noStep (s : State) : State := { s with out := { kind := .noStep, resp := [], reload := none } }

/-- No transaction is complete: the block waits (R371; log 3). -/
def await (s : State) : State := { s with out := { kind := .waiting, resp := [], reload := none } }

/-- R330, R340: `raise Fault(c)`, the one way a fault of the block is taken. "`st.fault <- c` if
`st.fault = 0`; otherwise `st.fault` keeps its value"; the rest of the block is unchanged and no response
is given. There is no trap entry and no return (R341, R342). -/
def raise (c : FaultCode) (s : State) : State :=
  { s with
    fault := if s.fault = 0 then c.code else s.fault
    out := { kind := .faulted c, resp := [], reload := none } }

/-! ### Pins -/

/-- R156: `outputs_off()`. -/
def outputsOff (s : State) : State := { s with tx := { s.tx with pins := .off } }

/-- R155: `drive(p)`. -/
def drive (p : Bool) (s : State) : State :=
  { s with
    tx := { s.tx with
      pins := { s.tx.pins with
        trackP := Bool.xor p s.tx.cfg.invert
        trackN := Bool.xor (!p) s.tx.cfg.invert } } }

/-! ### The ports -/

/-- The words waiting on a port. -/
def Ports.words (q : Ports) : Port → List Word
  | .host => q.hostIn
  | .event => q.eventIn

/-- R105: `n` words of a port are consumed. -/
def Ports.consume (q : Ports) (port : Port) (n : Nat) : Ports :=
  match port with
  | .host => { q with hostIn := q.hostIn.drop n }
  | .event => { q with eventIn := q.eventIn.drop n }

/-- The agent whose turn it was has taken it. -/
def Ports.passTurn (q : Ports) : Ports := { q with turns := q.turns.tail }

/-- `ws` arrives at the front of a port, which has the next turn. -/
def Ports.present (q : Ports) (port : Port) (ws : List Word) : Ports :=
  match port with
  | .host => { q with hostIn := ws ++ q.hostIn, turns := .host :: q.turns }
  | .event => { q with eventIn := ws ++ q.eventIn, turns := .event :: q.turns }

/-- R105, with the instance's parameters: what waits on a port. -/
def fetch (s : State) (port : Port) : Decoded := decode s.params port (s.ports.words port)

/-- The state in which a transaction of `n` words runs: its words are consumed and its turn is taken. -/
def consumed (port : Port) (n : Nat) (s : State) : State :=
  { s with ports := (s.ports.consume port n).passTurn }

/-- The state after a turn in which the port did not hold a whole transaction (log 3). -/
def turnPassed (s : State) : State := { s with ports := s.ports.passTurn }

/-- The words `ws` presented on a port as the next transaction. -/
def presented (port : Port) (ws : List Word) (s : State) : State :=
  { s with ports := s.ports.present port ws }

end Sys2Proof.Machine
end

