-- ==== Sys2Proof/Machine/Bidi.lean ====
section
/-! DEFINITION. The command-station side of the return channel (43_bidi.md): SET_BIDI_THRESHOLD, BIDI_BYTE
and BIDI_TAKE (R250, R252, R254), the symbol decoder (R255) and the datagram dissector (R257-R260). -/

namespace Sys2Proof.Machine

/-- R250: SET_BIDI_THRESHOLD. A value too wide for the DAC has a reserved bit set (R98, R333; log 9). -/
def execSetBidiThreshold (value : BitVec 16) (s : State) : Host.Outcome State Fault Refusal :=
  if 2 ^ s.params.dacBits ≤ value.toNat then .next (raise .fieldInvalid s)
  else .next (finish { s with bidi := { s.bidi with threshold := value } })

/-- R252: the buffer address at which BIDI_BYTE stores its byte; `none` when the byte is dropped. -/
def bidiStoreAddr (s : State) : Option Nat :=
  match s.tx.pins.rcCh with
  | .none => none
  | .ch1 => if s.bidi.n1.toNat < ch1Bytes then some (brawBase + s.bidi.n1.toNat) else none
  | .ch2 => if s.bidi.n2.toNat < ch2Bytes then some (brawBase + ch1Bytes + s.bidi.n2.toNat) else none

/-- R252: the count of the armed channel, one more. -/
def countByte (ch : Channel) (b : Bidi) : Bidi :=
  match ch with
  | .none => b
  | .ch1 => { b with n1 := b.n1 + 1 }
  | .ch2 => { b with n2 := b.n2 + 1 }

/-- R252: BIDI_BYTE. -/
def execBidiByte (b : Byte) (s : State) : Host.Outcome State Fault Refusal :=
  match bidiStoreAddr s with
  | none => .next (finish s)
  | some a => .next (finish { s with mem := s.mem.write a b, bidi := countByte s.tx.pins.rcCh s.bidi })

/-- R102: `RESP0` of BIDI_TAKE. -/
def bidiTakeHeader (s : State) : Word := 0#16 ++ s.bidi.sn2 ++ s.bidi.sn1 ++ 0#7 ++ 1#1

/-- R254: BIDI_TAKE. -/
def execBidiTake (s : State) : Host.Outcome State Fault Refusal :=
  if s.bidi.ready then
    .next (respond (bidiTakeHeader s :: packBytes (s.mem.bytes bsnapBase bidiRegion))
      { s with bidi := { s.bidi with ready := false } })
  else .next (respond [0, 0, 0] s)

/-! ### The symbol decoder -/

/-- R255: `rc_decode(x)`; "every byte not in the table is INVALID". -/
def rcDecode (p : Params) (x : Byte) : Symbol := (p.rcTable.lookup x).getD .invalid

/-- R259: `DG_SYMS(id)`. -/
def dgSymsOf (p : Params) (id : BitVec 4) : Option Nat := p.dgSyms.lookup id

/-! ### The dissector -/

/-- R257: the special codes that are entries. -/
inductive Special where
  | ack
  | nack
  | busy
  deriving DecidableEq, Repr

/-- R257: an entry: a special code, or a datagram with its channel, its 4-bit identifier and its payload as
an unsigned number. -/
inductive Entry where
  | special (kind : Special)
  | dg (ch : Nat) (id : BitVec 4) (payload : Nat)
  deriving DecidableEq, Repr

/-- The special code of a symbol, if it is one. -/
def specialOf : Symbol → Option Special
  | .ack => some .ack
  | .nack => some .nack
  | .busy => some .busy
  | .data _ => none
  | .invalid => none

/-- R258, R260: the number `{v0, v1, ...}` of a list of 6-bit values, the first in the high bits. -/
def joinSymbols (vs : List (BitVec 6)) : Nat := vs.foldl (fun w v => w * 64 + v.toNat) 0

/-- The 6-bit values of a list of bytes, if every one decodes to data (R260). -/
def allData (p : Params) : List Byte → Option (List (BitVec 6))
  | [] => some []
  | b :: rest =>
    match rcDecode p b, allData p rest with
    | .data v, some vs => some (v :: vs)
    | _, _ => none

/-- R258: the special symbols among the first bytes, in order. -/
def specialEntries (p : Params) (bs : List Byte) : List Entry :=
  bs.filterMap fun b => (specialOf (rcDecode p b)).map .special

/-- R258: `dissect1(c, n1)`. -/
def dissect1 (p : Params) (c : List Byte) (n1 : Nat) : List Entry :=
  if n1 = 2 then
    match rcDecode p (c.getD 0 0), rcDecode p (c.getD 1 0) with
    | .data v0, .data v1 =>
      let w : BitVec 12 := v0 ++ v1
      [.dg 1 (w.extractLsb' 8 4) (w.extractLsb' 0 8).toNat]
    | _, _ => specialEntries p (c.take n1)
  else specialEntries p (c.take n1)

/-- R260: the walk of `dissect2` over the bytes that are left; each pass uses one unit of `fuel`, and every
pass drops at least one byte, so as many units as bytes are enough. -/
def dissectWalk (p : Params) : (fuel : Nat) → List Byte → List Entry
  | 0, _ => []
  | _ + 1, [] => []
  | fuel + 1, b :: rest =>
    match rcDecode p b with
    | .ack => .special .ack :: dissectWalk p fuel rest
    | .nack => .special .nack :: dissectWalk p fuel rest
    | .busy => .special .busy :: dissectWalk p fuel rest
    | .invalid => dissectWalk p fuel rest
    | .data v0 =>
      let id : BitVec 4 := v0.extractLsb' 2 4
      match dgSymsOf p id with
      | none => dissectWalk p fuel rest
      | some l =>
        if (b :: rest).length < l then []
        else
          match allData p ((b :: rest).take l) with
          | some vs => .dg 2 id (joinSymbols vs % 2 ^ (6 * l - 4)) :: dissectWalk p fuel ((b :: rest).drop l)
          | none => dissectWalk p fuel ((b :: rest).drop l)

/-- R260: `dissect2(c, n2)`. -/
def dissect2 (p : Params) (c : List Byte) (n2 : Nat) : List Entry := dissectWalk p n2 (c.take n2)

/-- R257: `dissect(bytes, n1, n2, address)`; "`address` does not change the result". -/
def dissect (p : Params) (bytes : List Byte) (n1 n2 : Nat) (_address : Nat) : List Entry :=
  dissect1 p (bytes.take ch1Bytes) n1 ++ dissect2 p (bytes.drop ch1Bytes) n2

/-- R257: the entries of the snapshot. -/
def dissectSnapshot (s : State) (address : Nat) : List Entry :=
  dissect s.params (s.mem.bytes bsnapBase bidiRegion) s.bidi.sn1.toNat s.bidi.sn2.toNat address

/-- R258, R259: the names of the entries, which "change no rule" (93_implementation_defined.md G7). -/
inductive EntryName where
  | adrHigh
  | adrLow
  | pom
  | ext
  | dyn
  | xpom (seq : Nat)
  deriving DecidableEq, Repr

/-- R258, R259: the name of an entry of a channel with an identifier. -/
def entryName (ch : Nat) (id : BitVec 4) : Option EntryName :=
  if ch = 1 then
    if id = 1 then some .adrHigh else if id = 2 then some .adrLow else none
  else if id = 0 then some .pom
  else if id = 3 then some .ext
  else if id = 7 then some .dyn
  else if 8 ≤ id.toNat ∧ id.toNat ≤ 11 then some (.xpom (id.toNat - 8))
  else none

/-- R259: DYN's value, `payload[13:6]`. -/
def dynValue (payload : Nat) : Nat := payload / 64 % 256

/-- R259: DYN's variable index, `payload[5:0]`. -/
def dynIndex (payload : Nat) : Nat := payload % 64

end Sys2Proof.Machine
end

