-- ==== Sys2Proof/Machine/Ovr.lean ====
section
/-! DEFINITION. The zero-bit override setters SET_OVR_MASK and SET_OVR_DELTA (44_zero_bit_override.md R302,
R303). The adjustment itself is in Machine/Timing.lean. -/

namespace Sys2Proof.Machine

/-- R302: SET_OVR_MASK. -/
def execSetOvrMask (mask : BitVec 64) (s : State) : Host.Outcome State Fault Refusal :=
  .next (finish { s with ovr := { s.ovr with mask := mask } })

/-- R303: SET_OVR_DELTA. -/
def execSetOvrDelta (sel : OvrSel) (delta : BitVec 32) (s : State) : Host.Outcome State Fault Refusal :=
  match sel with
  | .p => .next (finish { s with ovr := { s.ovr with dP := delta } })
  | .n => .next (finish { s with ovr := { s.ovr with dN := delta } })

end Sys2Proof.Machine
end

