-- ==== Sys2Proof/Machine/Flags.lean ====
section
/-! DEFINITION. The derived levels of the block. It has no condition flags: "FAULT and the registers of
10_state.md rule R39 are the whole observable status" (60_exceptions.md R330). Here stand the combinational
outputs (43_bidi.md R251, 60_exceptions.md R344), the agents and when each is enabled (R343). -/

namespace Sys2Proof.Machine

/-- R251: `DAC_OUT = (DAC_EN = 1) ? st.bidi.threshold : 0`. -/
def dacOut (s : State) : BitVec 16 := if s.tx.pins.dacEn then s.bidi.threshold else 0

/-- R344: `IRQ_RX = st.rx.ready`. -/
def irqRx (s : State) : Bool := s.rx.ready

/-- R344: `IRQ_BIDI = st.bidi.ready`. -/
def irqBidi (s : State) : Bool := s.bidi.ready

/-- R344: `IRQ_FAULT = (st.fault != 0)`. -/
def irqFault (s : State) : Bool := decide (s.fault ≠ 0)

/-- R345: the five agents. -/
inductive Agent where
  | host
  | txTimer
  | rxCapture
  | uart
  | oneShot
  deriving DecidableEq, Repr

/-- R343: when an agent may take a step; the host always may (R346). -/
def Agent.enabled (s : State) : Agent → Bool
  | .host => true
  | .txTimer => decide (s.tx.run = .running ∨ s.tx.run = .halting)
  | .rxCapture => true
  | .uart => true
  | .oneShot => decide (s.rx.os ≠ .idle)

/-- R343: the agent that gives a transaction. -/
def agentOf : Instr → Agent
  | .txUpdate => .txTimer
  | .rxCapture _ => .rxCapture
  | .bidiByte _ => .uart
  | .rxBidiFire => .oneShot
  | .initTx _ _ _ _ _ _ | .packet _ | .start | .stop | .setOvrMask _ | .setOvrDelta _ _
  | .setBidiThreshold _ | .rxInit _ | .rxTake | .bidiTake | .readReg _ | .readBuf _ => .host

end Sys2Proof.Machine
end

