-- ==== Sys2Proof/Machine/Operands.lean ====
section
/-! DEFINITION. What an operand of READ_REG and READ_BUF names: the register map (10_state.md R39-R59) and
the buffer space (20_memory.md R60). -/

namespace Sys2Proof.Machine

/-! ### The codes of the named values in the registers -/

/-- R21 -/
def RunState.code : RunState → BitVec 2
  | .uninit => 0
  | .stopped => 1
  | .running => 2
  | .halting => 3

/-- R24 -/
def Phase.code : Phase → BitVec 3
  | .preamble => 0
  | .data => 1
  | .bidiStart => 2
  | .bidiCh1 => 3
  | .bidiCh2 => 4
  | .bidiEnd => 5

/-- R29, R37 -/
def Channel.code : Channel → BitVec 2
  | .none => 0
  | .ch1 => 1
  | .ch2 => 2

/-- R34 -/
def RxState.code : RxState → BitVec 2
  | .hunt => 0
  | .start2 => 1
  | .data => 2

/-- R34 -/
def FirstHalf.code : FirstHalf → BitVec 2
  | .none => 0
  | .one => 1
  | .zero => 2

/-- R37, R55 -/
def OneShot.code : OneShot → BitVec 2
  | .idle => 0
  | .armedCh1 => 1
  | .armedCh2 => 2

/-! ### The registers; each is written with its high bits first -/

/-- R40 -/
def regTxCtrl (s : State) : Word :=
  0#8 ++ s.tx.mboxLen ++ s.tx.cfg.np ++ 0#1 ++ BitVec.ofBool s.tx.mboxFull ++ BitVec.ofBool s.tx.cfg.trig ++
    BitVec.ofBool s.tx.cfg.invert ++ BitVec.ofBool s.tx.cfg.bidi ++ BitVec.ofBool s.tx.stopReq ++ s.tx.run.code

/-- R41 -/
def regTxBitUs (s : State) : Word := s.tx.cfg.bit0Us ++ s.tx.cfg.bit1Us

/-- R44 -/
def regTxCursor (s : State) : Word :=
  s.tx.actLen ++ s.tx.cursor.byteIdx ++ s.tx.cursor.bitIdx ++ 0#3 ++ BitVec.ofBool s.tx.pol ++
    BitVec.ofBool s.tx.cursor.half ++ s.tx.cursor.phase.code

/-- R47 -/
def regTxOut (s : State) : Word :=
  0#24 ++ s.tx.pins.rcCh.code ++ BitVec.ofBool s.tx.pins.trigger ++ BitVec.ofBool s.tx.pins.dacEn ++
    BitVec.ofBool s.tx.pins.brakeEn ++ BitVec.ofBool s.tx.pins.bidiEn ++ BitVec.ofBool s.tx.pins.trackN ++
    BitVec.ofBool s.tx.pins.trackP

/-- R53 -/
def regBidiStatus (s : State) : Word :=
  0#8 ++ s.bidi.sn2 ++ s.bidi.sn1 ++ 0#7 ++ BitVec.ofBool s.bidi.ready ++ s.bidi.n2 ++ s.bidi.n1

/-- R55 -/
def regRxCtrl (s : State) : Word :=
  0#4 ++ s.rx.bitcnt ++ s.rx.h ++ 0#5 ++ s.rx.win.code ++ s.rx.os.code ++ BitVec.ofBool s.rx.bidiEn ++
    BitVec.ofBool s.rx.ready ++ BitVec.ofBool s.rx.tsValid ++ s.rx.first.code ++ s.rx.st.code

/-- R56 -/
def regRxAcc (s : State) : Word := 0#8 ++ s.rx.readyLen ++ s.rx.n ++ s.rx.acc

/-- R39: `REG(n)`, the register numbered `n`; `none` for the numbers R39 leaves unassigned. -/
def reg (s : State) (n : Byte) : Option Word :=
  match n.toNat with
  | 0x00 => some (regTxCtrl s)
  | 0x01 => some (regTxBitUs s)
  | 0x02 => some s.tx.cfg.bit1Ticks
  | 0x03 => some s.tx.cfg.bit0Ticks
  | 0x04 => some (regTxCursor s)
  | 0x05 => some s.tx.arrActive
  | 0x06 => some s.tx.arrPreload
  | 0x07 => some (regTxOut s)
  | 0x08 => some (s.ovr.mask.extractLsb' 0 32)
  | 0x09 => some (s.ovr.mask.extractLsb' 32 32)
  | 0x0A => some s.ovr.dP
  | 0x0B => some s.ovr.dN
  | 0x0C => some (s.bidi.threshold.zeroExtend 32)
  | 0x0D => some (regBidiStatus s)
  | 0x0E => some ((dacOut s).zeroExtend 32)
  | 0x10 => some (regRxCtrl s)
  | 0x11 => some (regRxAcc s)
  | 0x12 => some s.rx.lastTs
  | 0x13 => some s.rx.osRef
  | 0x1F => some (s.fault.zeroExtend 32)
  | _ => none

/-- R321: the byte at a mapped buffer address, widened; `none` above 0x8F. -/
def bufferByte (s : State) (a : Byte) : Option Word :=
  if mapped a.toNat then some ((s.mem.read a.toNat).zeroExtend 32) else none

end Sys2Proof.Machine
end

