-- ==== Sys2Proof/Machine/Timing.lean ====
section
/-! DEFINITION. The bit/timing table (40_timing_table.md R130-R134), the zero-bit adjustment
(44_zero_bit_override.md R300, R301) and the compare values of the decoder-side one-shot
(42_rx_engine.md R210). Pure functions; no step of the untimed model waits (log 11). -/

namespace Sys2Proof.Machine

/-- R131: `bit_us * TICKS_PER_US`. -/
def usToTicks (p : Params) (us : BitVec 16) : Nat := us.toNat * p.ticksPerUs

/-- R130: `half_period(bit, cfg)`. -/
def halfPeriod (bit : Bool) (cfg : TxCfg) : Word := if bit then cfg.bit1Ticks else cfg.bit0Ticks

/-- R134: `D_*_US`, the length of a cutout slot in microseconds; 0 for a phase that is no cutout slot. -/
def bidiUs (p : Params) : Phase → Nat
  | .bidiStart => p.dBidiStartUs
  | .bidiCh1 => p.dBidiCh1Us
  | .bidiCh2 => p.dBidiCh2Us
  | .bidiEnd => p.dBidiEndUs
  | .preamble | .data => 0

/-- R134: `bidi_ticks(phase)`. -/
def bidiTicks (p : Params) (ph : Phase) : Nat := bidiUs p ph * p.ticksPerUs

/-- R150: the phases of the four cutout slots. -/
def cutoutPhases : List Phase := [.bidiStart, .bidiCh1, .bidiCh2, .bidiEnd]

/-- R301: `isP(h) = ((h = 0) = OVR_P_FIRST)`. -/
def isP (p : Params) (half : Bool) : Bool := (!half) == p.ovrPFirst

/-- R300: `p = 9*byte_idx + bit_idx`. -/
def bitPosition (byteIdx bitIdx : Byte) : Nat := 9 * byteIdx.toNat + bitIdx.toNat

/-- R300: `ovr_adjust(b, p, h)`. -/
def ovrAdjust (s : State) (bit : Bool) (pos : Nat) (half : Bool) : Int :=
  if bit = false ∧ pos < ovrPositions ∧ s.ovr.mask.getLsbD pos = true then
    if isP s.params half then s.ovr.dP.toInt else s.ovr.dN.toInt
  else 0

/-- R206, R210: a timestamp modulo `2^CAP_BITS`. -/
def capMod (p : Params) (t : Nat) : Word := BitVec.ofNat 32 (t % 2 ^ p.capBits)

/-- R210: the capture counter value at which the armed one-shot fires in a timed model; none while idle. -/
def oneShotDue (s : State) : Option Word :=
  match s.rx.os with
  | .idle => none
  | .armedCh1 =>
    some (capMod s.params (s.rx.osRef.toNat + s.params.rxBidiCh1DelayUs * s.params.rxTicksPerUs))
  | .armedCh2 =>
    some (capMod s.params (s.rx.osRef.toNat + s.params.rxBidiCh2DelayUs * s.params.rxTicksPerUs))

end Sys2Proof.Machine
end

