-- ==== Sys2Proof/Machine/Rx.lean ====
section
/-! DEFINITION. The receive engine and the decoder-side cutout timer (42_rx_engine.md): classification
(R200), the framing steps (R203-R207), and the operations RX_INIT, RX_CAPTURE, RX_TAKE and RX_BIDI_FIRE
(R201, R202, R208, R209). -/

namespace Sys2Proof.Machine

/-- R200: the class of an interval. -/
inductive HalfClass where
  | one
  | zero
  | invalid
  deriving DecidableEq, Repr

/-- R200: `classify(t)`. DESIGN CHOICE (log 20): with `RX_ONE_MIN_US = 0`, which R5 allows, `t = 0` is ONE, as the
pseudocode of R200 computes it, although R202 calls `t = 0` INVALID; unsafe for such a parameter set. -/
def classify (p : Params) (t : Nat) : HalfClass :=
  if p.rxOneMinUs * p.rxTicksPerUs ≤ t ∧ t ≤ p.rxOneMaxUs * p.rxTicksPerUs then .one
  else if p.rxZeroMinUs * p.rxTicksPerUs ≤ t ∧ t ≤ p.rxZeroMaxUs * p.rxTicksPerUs then .zero
  else .invalid

/-- R207: `hunt_reset()`. -/
def huntReset (s : State) : State :=
  { s with
    rx := { s.rx with st := .hunt, h := 0, first := .none, bitcnt := 0, acc := 0, n := 0 }
    mem := s.mem.clear rxbBase packetRegion }

/-- R203: `H = 2 * RX_PREAMBLE_MIN`. -/
def huntGoal (p : Params) : Nat := 2 * p.rxPreambleMin

/-- R203: `hunt_step(c)` for a half that is ONE (`one`) or ZERO. -/
def huntStep (one : Bool) (s : State) : State :=
  if one then
    { s with rx := { s.rx with h := BitVec.ofNat 8 (min (s.rx.h.toNat + 1) (huntGoal s.params)) } }
  else if huntGoal s.params ≤ s.rx.h.toNat then { s with rx := { s.rx with st := .start2 } }
  else { s with rx := { s.rx with h := 0 } }

/-- R204: `start2_step(c)`. -/
def start2Step (one : Bool) (s : State) : State :=
  if one then huntReset s
  else
    { s with
      rx := { s.rx with st := .data, first := .none, bitcnt := 0, acc := 0, n := 0 }
      mem := s.mem.clear rxbBase packetRegion }

/-- R64, R206: the XOR of a list of bytes. -/
def xorBytes (bs : List Byte) : Byte := bs.foldl (fun x b => x ^^^ b) 0

/-- R206: the packet is accepted. -/
def rxAccepts (s : State) : Bool :=
  decide (2 ≤ s.rx.n.toNat ∧ xorBytes (s.mem.bytes rxbBase s.rx.n.toNat) = 0)

/-- R206: the accepted packet goes to the ready slot. -/
def fillReady (s : State) : State :=
  { s with
    mem := s.mem.copy rxbBase rxrBase packetRegion
    rx := { s.rx with readyLen := s.rx.n, ready := true } }

/-- R206: `os_ref`, the expected end of the end bit. -/
def endBitEnd (p : Params) (ts : Word) (t : Nat) : Word := capMod p (ts.toNat + t)

/-- R206: with `bidi_en`, the one-shot is armed. -/
def armOneShot (ts : Word) (t : Nat) (s : State) : State :=
  if s.rx.bidiEn then
    { s with rx := { s.rx with os := .armedCh1, osRef := endBitEnd s.params ts t, win := .none } }
  else s

/-- R206: `packet_end(ts, t)`. -/
def packetEnd (ts : Word) (t : Nat) (s : State) : State :=
  if rxAccepts s then huntReset (armOneShot ts t (fillReady s)) else huntReset s

/-- R34: the class of a first half. -/
def firstOf (one : Bool) : FirstHalf := if one then .one else .zero

/-- R205: the buffer address at which a complete byte is stored. -/
def rxStoreAddr (s : State) : Nat := rxbBase + s.rx.n.toNat

/-- R205: a complete byte is stored, or the buffer overflows. -/
def storeByte (s : State) : Except Fault State :=
  if s.rx.n.toNat = s.params.rxCapacity then .ok (huntReset s)
  else if mapped (rxStoreAddr s) then
    .ok { s with mem := s.mem.write (rxStoreAddr s) s.rx.acc, rx := { s.rx with n := s.rx.n + 1 } }
  else .error .unmappedBuffer

/-- R205: `st.rx.acc <- {st.rx.acc[6:0], bit}`. -/
def shiftIn (acc : Byte) (bit : Bool) : Byte := acc.extractLsb' 0 7 ++ BitVec.ofBool bit

/-- R205: a data bit is complete. -/
def takeBit (one : Bool) (s : State) : Except Fault State :=
  let s' := { s with
    rx := { s.rx with first := .none, acc := shiftIn s.rx.acc one, bitcnt := s.rx.bitcnt + 1 } }
  if s'.rx.bitcnt = 8 then storeByte s' else .ok s'

/-- R205: `data_step(c, ts, t)`. The XOR of R206 reads `RXB[0..n-1]`, which no run takes past the mapped
addresses (log 10). -/
def dataStep (one : Bool) (ts : Word) (t : Nat) (s : State) : Except Fault State :=
  if s.rx.first = .none then
    if s.rx.bitcnt = 8 ∧ one = true then
      if rxbBase + s.rx.n.toNat ≤ bufferTop + 1 then .ok (packetEnd ts t s) else .error .unmappedBuffer
    else .ok { s with rx := { s.rx with first := firstOf one } }
  else if s.rx.first ≠ firstOf one then .ok (huntReset s)
  else if s.rx.bitcnt = 8 then
    .ok { s with rx := { s.rx with first := .none, bitcnt := 0, acc := 0 } }
  else takeBit one s

/-- R202: the framing step of a half. -/
def frameStep (one : Bool) (ts : Word) (t : Nat) (s : State) : Except Fault State :=
  match s.rx.st with
  | .hunt => .ok (huntStep one s)
  | .start2 => .ok (start2Step one s)
  | .data => dataStep one ts t s

/-- R202: `t`, the interval since the previous edge, modulo `2^CAP_BITS`. -/
def interval (s : State) (ts : Word) : Nat := (ts - s.rx.lastTs).toNat % 2 ^ s.params.capBits

/-- R202: the edge becomes the reference for the next interval. -/
def recordEdge (ts : Word) (s : State) : State :=
  { s with rx := { s.rx with lastTs := ts, tsValid := true } }

/-- R202: the capture step. -/
def captureStep (ts : Word) (s : State) : Except Fault State :=
  if s.rx.tsValid then
    let t := interval s ts
    match classify s.params t with
    | .invalid => .ok (huntReset (recordEdge ts s))
    | .one => frameStep true ts t (recordEdge ts s)
    | .zero => frameStep false ts t (recordEdge ts s)
  else .ok (recordEdge ts s)

/-- R202: RX_CAPTURE. A timestamp wider than `CAP_BITS` has a reserved bit set (R101, R333; log 9). -/
def execRxCapture (ts : Word) (s : State) : Host.Outcome State Fault Refusal :=
  if 2 ^ s.params.capBits ≤ ts.toNat then .next (raise .fieldInvalid s)
  else
    match captureStep ts s with
    | .ok s' => .next (finish s')
    | .error f => .fault f

/-- R201: the effect of RX_INIT. -/
def rxRestart (bidiEn : Bool) (s : State) : State :=
  let s' := huntReset s
  { s' with
    rx := { s'.rx with
      tsValid := false, lastTs := 0, ready := false, readyLen := 0
      os := .idle, osRef := 0, win := .none, bidiEn := bidiEn }
    mem := s'.mem.clear rxrBase packetRegion }

/-- R201: RX_INIT. -/
def execRxInit (bidiEn : Bool) (s : State) : Host.Outcome State Fault Refusal :=
  .next (finish (rxRestart bidiEn s))

/-- R102: `RESP0` of RX_TAKE. -/
def rxTakeHeader (s : State) : Word := 0#16 ++ s.rx.readyLen ++ 0#7 ++ 1#1

/-- R208: RX_TAKE. `RXR[0..L-1]` is mapped in every run (log 10). -/
def execRxTake (s : State) : Host.Outcome State Fault Refusal :=
  if s.rx.ready then
    if rxrBase + s.rx.readyLen.toNat ≤ bufferTop + 1 then
      .next (respond (rxTakeHeader s :: packBytes (s.mem.bytes rxrBase s.rx.readyLen.toNat))
        { s with rx := { s.rx with ready := false } })
    else .fault .unmappedBuffer
  else .next (respond [0] s)

/-- R209: RX_BIDI_FIRE. -/
def execRxBidiFire (s : State) : Host.Outcome State Fault Refusal :=
  match s.rx.os with
  | .idle => .next (noStep s)
  | .armedCh1 => .next (finish { s with rx := { s.rx with win := .ch1, os := .armedCh2 } })
  | .armedCh2 => .next (finish { s with rx := { s.rx with win := .ch2, os := .idle } })

end Sys2Proof.Machine
end

