-- ==== Sys2Proof/Machine/Status.lean ====
section
/-! DEFINITION. The status reads READ_REG and READ_BUF (45_status.md R320, R321). -/

namespace Sys2Proof.Machine

/-- R320: READ_REG. -/
def execReadReg (n : Byte) (s : State) : Host.Outcome State Fault Refusal :=
  match reg s n with
  | some w => .next (respond [w] s)
  | none => .next (raise .fieldInvalid s)

/-- R321: READ_BUF. -/
def execReadBuf (a : Byte) (s : State) : Host.Outcome State Fault Refusal :=
  match bufferByte s a with
  | some w => .next (respond [w] s)
  | none => .next (raise .fieldInvalid s)

end Sys2Proof.Machine
end

