-- ==== Sys2Proof/Machine/Tx.lean ====
section
/-! DEFINITION. The transmit engine (41_tx_engine.md): the frame and its cursor (R150-R153), the outputs and
the latch (R154-R157), and the operations INIT_TX, PACKET, START, STOP and TX_UPDATE (R158-R162). -/

namespace Sys2Proof.Machine

/-! ### The frame and the cursor -/

/-- R151: `bitval(j, k)`. ACT[j] at an unmapped address and a bit number outside 7..0 do not exist; no run
asks for them (log 10). -/
def bitval (s : State) (j k : Byte) : Except Fault Bool :=
  if k = 0 then .ok (decide (j = s.tx.actLen))
  else if 8 < k.toNat then .error .noSuchBit
  else if mapped (actBase + j.toNat) then
    .ok ((s.mem.read (actBase + j.toNat)).getLsbD (8 - k.toNat))
  else .error .unmappedBuffer

/-- R152: `next_slot(c)`; `none` is `WRAP`. It reads `cfg.np`, `cfg.bidi` and `act_len`. -/
def nextSlot (cfg : TxCfg) (actLen : Byte) (c : Cursor) : Option Cursor :=
  match c.phase with
  | .preamble =>
    if c.half = false then some { c with half := true }
    else if c.bitIdx.toNat + 1 < cfg.np.toNat then
      some { phase := .preamble, byteIdx := 0, bitIdx := c.bitIdx + 1, half := false }
    else some { phase := .data, byteIdx := 0, bitIdx := 0, half := false }
  | .data =>
    if c.half = false then some { c with half := true }
    else if c.byteIdx = actLen then
      if cfg.bidi then some { phase := .bidiStart, byteIdx := 0, bitIdx := 0, half := false } else none
    else if c.bitIdx.toNat < 8 then some { c with bitIdx := c.bitIdx + 1, half := false }
    else some { phase := .data, byteIdx := c.byteIdx + 1, bitIdx := 0, half := false }
  | .bidiStart => some { phase := .bidiCh1, byteIdx := 0, bitIdx := 0, half := false }
  | .bidiCh1 => some { phase := .bidiCh2, byteIdx := 0, bitIdx := 0, half := false }
  | .bidiCh2 => some { phase := .bidiEnd, byteIdx := 0, bitIdx := 0, half := false }
  | .bidiEnd => none

/-- R153: `dur(c)`, an unbounded integer. -/
def dur (s : State) (c : Cursor) : Except Fault Int :=
  match c.phase with
  | .preamble => .ok s.tx.cfg.bit1Ticks.toNat
  | .data =>
    match bitval s c.byteIdx c.bitIdx with
    | .error f => .error f
    | .ok b =>
      .ok ((halfPeriod b s.tx.cfg).toNat + ovrAdjust s b (bitPosition c.byteIdx c.bitIdx) c.half)
  | .bidiStart => .ok (bidiTicks s.params .bidiStart)
  | .bidiCh1 => .ok (bidiTicks s.params .bidiCh1)
  | .bidiCh2 => .ok (bidiTicks s.params .bidiCh2)
  | .bidiEnd => .ok (bidiTicks s.params .bidiEnd)

/-- The two halves of a bit. -/
def bothHalves (ph : Phase) (j k : Nat) : List Cursor :=
  [{ phase := ph, byteIdx := BitVec.ofNat 8 j, bitIdx := BitVec.ofNat 8 k, half := false },
   { phase := ph, byteIdx := BitVec.ofNat 8 j, bitIdx := BitVec.ofNat 8 k, half := true }]

/-- R150: the slots of a frame for an active packet of `n` bytes, in order. -/
def frameSlots (np n : Nat) (bidi : Bool) : List Cursor :=
  ((List.range np).flatMap fun i => bothHalves .preamble 0 i) ++
  ((List.range n).flatMap fun j => (List.range 9).flatMap fun k => bothHalves .data j k) ++
  bothHalves .data n 0 ++
  (if bidi then
    cutoutPhases.map fun ph => { phase := ph, byteIdx := 0, bitIdx := 0, half := false }
  else [])

/-- R150, R165: the number of slots of a frame. -/
def frameLength (np n : Nat) (bidi : Bool) : Nat := 2 * np + 18 * n + 2 + (if bidi then 4 else 0)

/-! ### Outputs -/

/-- R154, Preamble and Data slots: the polarity toggles, the track is driven, and the trigger marks the first
half of the first preamble bit. -/
def emitTrack (c : Cursor) (s : State) : State :=
  let s' := drive (!s.tx.pol) { s with tx := { s.tx with pol := !s.tx.pol } }
  { s' with
    tx := { s'.tx with
      pins := { s'.tx.pins with
        trigger := s.tx.cfg.trig && decide (c.phase = .preamble ∧ c.bitIdx = 0 ∧ c.half = false) } } }

/-- R154, BiDiStart: the cutout begins. -/
def emitBidiStart (s : State) : State :=
  { s with
    tx := { s.tx with
      pins := { s.tx.pins with
        trackP := false, trackN := false, brakeEn := true, bidiEn := true, dacEn := true, trigger := false } }
    mem := s.mem.clear brawBase bidiRegion
    bidi := { s.bidi with n1 := 0, n2 := 0 } }

/-- R154, BiDiCh1 and BiDiCh2: the receiver is armed for a channel. -/
def emitArm (ch : Channel) (s : State) : State :=
  { s with tx := { s.tx with pins := { s.tx.pins with rcCh := ch, trigger := false } } }

/-- R154, BiDiEnd: the cutout ends and the snapshot is taken. -/
def emitBidiEnd (s : State) : State :=
  drive s.tx.pol
    { s with
      tx := { s.tx with
        pins := { s.tx.pins with
          rcCh := .none, bidiEn := false, brakeEn := false, dacEn := false, trigger := false } }
      mem := s.mem.copy brawBase bsnapBase bidiRegion
      bidi := { s.bidi with sn1 := s.bidi.n1, sn2 := s.bidi.n2, ready := true } }

/-- R154: `emit(c)`. -/
def emit (c : Cursor) (s : State) : State :=
  match c.phase with
  | .preamble => emitTrack c s
  | .data => emitTrack c s
  | .bidiStart => emitBidiStart s
  | .bidiCh1 => emitArm .ch1 s
  | .bidiCh2 => emitArm .ch2 s
  | .bidiEnd => emitBidiEnd s

/-! ### The latch -/

/-- R157: whether the mailbox holds a packet to send. -/
def mailboxHasPacket (s : State) : Bool := s.tx.mboxFull && decide (1 ≤ s.tx.mboxLen.toNat)

/-- R157: the packet of the frame that starts now, as the 32 bytes of ACT and a length. -/
def latchedByte (s : State) (i : Nat) : Byte :=
  if mailboxHasPacket s then s.mem.read (mboxBase + i) else s.params.idlePacket.getD i 0

/-- R157: the length of that packet. -/
def latchedLen (s : State) : Byte :=
  if mailboxHasPacket s then s.tx.mboxLen else BitVec.ofNat 8 s.params.idlePacket.length

/-- R157: `enter_frame()`. -/
def enterFrame (s : State) : State :=
  { s with
    mem := (s.mem.fill actBase packetRegion (latchedByte s)).clear mboxBase packetRegion
    tx := { s.tx with actLen := latchedLen s, mboxFull := false, mboxLen := 0 } }

/-! ### INIT_TX -/

/-- R158: a length in ticks is in `[1, ARR_MAX]`. -/
def tickRange (p : Params) (t : Nat) : Bool := decide (1 ≤ t) && decide (t ≤ p.arrMax)

/-- R158: `ok`. -/
def configOk (p : Params) (np : Byte) (bidi : Bool) (bit1Us bit0Us : BitVec 16) : Bool :=
  decide
    (p.txPreambleMin ≤ np.toNat ∧ np.toNat ≤ npMax
    ∧ p.bit1MinUs ≤ bit1Us.toNat ∧ bit1Us.toNat ≤ p.bit1MaxUs
    ∧ p.bit0MinUs ≤ bit0Us.toNat
    ∧ tickRange p (usToTicks p bit1Us) = true ∧ tickRange p (usToTicks p bit0Us) = true
    ∧ (bidi = true → ∀ ph ∈ cutoutPhases, tickRange p (bidiTicks p ph) = true))

/-- R158: the effect of an accepted INIT_TX. -/
def configure (np : Byte) (bidi invert trig : Bool) (bit1Us bit0Us : BitVec 16) (s : State) : State :=
  { s with
    tx :=
      { run := .stopped
        cfg :=
          { np := np, bit1Us := bit1Us, bit0Us := bit0Us
            bit1Ticks := BitVec.ofNat 32 (usToTicks s.params bit1Us)
            bit0Ticks := BitVec.ofNat 32 (usToTicks s.params bit0Us)
            bidi := bidi, invert := invert, trig := trig }
        stopReq := false
        cursor := .first
        pol := false
        mboxFull := false
        mboxLen := 0
        actLen := 0
        arrActive := 0
        arrPreload := 0
        pins := .off }
    bidi := { s.bidi with n1 := 0, n2 := 0, sn1 := 0, sn2 := 0, ready := false }
    mem :=
      (((s.mem.clear mboxBase packetRegion).clear actBase packetRegion).clear brawBase bidiRegion).clear
        bsnapBase bidiRegion }

/-- R158: INIT_TX. BUSY comes before CONFIG_INVALID (R339). -/
def execInitTx (np : Byte) (bidi invert trig : Bool) (bit1Us bit0Us : BitVec 16) (s : State) :
    Host.Outcome State Fault Refusal :=
  match s.tx.run with
  | .running | .halting => .next (raise .busy s)
  | .uninit | .stopped =>
    if configOk s.params np bidi bit1Us bit0Us then
      .next (finish (configure np bidi invert trig bit1Us bit0Us s))
    else .next (raise .configInvalid s)

/-! ### PACKET -/

/-- R159: the effect of an accepted PACKET. -/
def fillMailbox (bytes : List Byte) (s : State) : State :=
  { s with
    mem := s.mem.fill mboxBase packetRegion fun i => bytes.getD i 0
    tx := { s.tx with mboxLen := BitVec.ofNat 8 bytes.length, mboxFull := true } }

/-- R159: PACKET. -/
def execPacket (bytes : List Byte) (s : State) : Host.Outcome State Fault Refusal :=
  if s.params.pktCapacity < bytes.length then .next (raise .packetLength s)
  else .next (finish (fillMailbox bytes s))

/-! ### START and STOP -/

/-- R160: the effect of an accepted START. -/
def startFrame (s : State) : State :=
  let s' := enterFrame s
  { s' with
    tx := { s'.tx with
      cursor := .first
      pol := false
      stopReq := false
      arrActive := s.tx.cfg.bit1Ticks
      arrPreload := s.tx.cfg.bit1Ticks
      run := .running } }

/-- R160: START. -/
def execStart (s : State) : Host.Outcome State Fault Refusal :=
  match s.tx.run with
  | .uninit => .next (raise .notInitialized s)
  | .running | .halting => .next (raise .busy s)
  | .stopped => .next (finish (startFrame s))

/-- R161: STOP. -/
def execStop (s : State) : Host.Outcome State Fault Refusal :=
  match s.tx.run with
  | .running => .next (finish { s with tx := { s.tx with stopReq := true } })
  | .uninit | .stopped | .halting => .next (finish s)

/-! ### TX_UPDATE -/

/-- R162: `st.tx.arr_active <- st.tx.arr_preload`. -/
def loadActive (s : State) : State := { s with tx := { s.tx with arrActive := s.tx.arrPreload } }

/-- R162, R338: outputs off, Stopped, no stop pending. -/
def stopEngine (s : State) : State :=
  let s' := outputsOff s
  { s' with tx := { s'.tx with run := .stopped, stopReq := false } }

/-- R162: the cursor is moved. -/
def setCursor (c : Cursor) (s : State) : State := { s with tx := { s.tx with cursor := c } }

/-- R162: the wrap step of a frame for which a STOP is pending. -/
def wrapHalting (s : State) : State :=
  let s' := setCursor .first s
  { s' with tx := { s'.tx with run := .halting } }

/-- R162: the state after the slot is emitted and the cursor moved, with the length `r` of the slot the
cursor now names. -/
def advance (s : State) : State × Except Fault Int :=
  match nextSlot s.tx.cfg s.tx.actLen s.tx.cursor with
  | none =>
    if s.tx.stopReq then (wrapHalting s, .ok s.tx.cfg.bit1Ticks.toNat)
    else
      let s' := setCursor .first (enterFrame s)
      (s', dur s' .first)
  | some c =>
    let s' := setCursor c s
    (s', dur s' c)

/-- R162: `1 <= r <= ARR_MAX`. -/
def reloadOk (p : Params) (r : Int) : Bool := decide (1 ≤ r) && decide (r ≤ p.arrMax)

/-- R162: `st.tx.arr_preload <- r` and `return r`. -/
def setReload (r : Int) (s : State) : State :=
  giveReload (BitVec.ofInt 32 r) { s with tx := { s.tx with arrPreload := BitVec.ofInt 32 r } }

/-- R162: the step of a Running engine, up to the range check. -/
def emitAndAdvance (s : State) : State × Except Fault Int := advance (emit s.tx.cursor (loadActive s))

/-- R162: TX_UPDATE. RELOAD_RANGE discards the step's other changes and stops the engine (R338). -/
def execTxUpdate (s : State) : Host.Outcome State Fault Refusal :=
  match s.tx.run with
  | .uninit => .next (raise .notInitialized s)
  | .stopped => .next (noStep s)
  | .halting => .next (finish (stopEngine (loadActive s)))
  | .running =>
    match emitAndAdvance s with
    | (_, .error f) => .fault f
    | (s', .ok r) =>
      if reloadOk s.params r then .next (setReload r s')
      else .next (raise .reloadRange (stopEngine s))

end Sys2Proof.Machine
end

