-- ==== Sys2Proof/Machine/Dispatch.lean ====
section
/-! DEFINITION. One arm for each operation. -/

namespace Sys2Proof.Machine

def exec (i : Instr) (s : State) : Host.Outcome State Fault Refusal :=
  match i with
  | .initTx np bidi invert trig bit1Us bit0Us => Sys2Proof.Machine.execInitTx np bidi invert trig bit1Us bit0Us s
  | .packet bytes => Sys2Proof.Machine.execPacket bytes s
  | .start => Sys2Proof.Machine.execStart s
  | .stop => Sys2Proof.Machine.execStop s
  | .setOvrMask mask => Sys2Proof.Machine.execSetOvrMask mask s
  | .setOvrDelta sel delta => Sys2Proof.Machine.execSetOvrDelta sel delta s
  | .setBidiThreshold value => Sys2Proof.Machine.execSetBidiThreshold value s
  | .rxInit bidiEn => Sys2Proof.Machine.execRxInit bidiEn s
  | .rxTake => Sys2Proof.Machine.execRxTake s
  | .bidiTake => Sys2Proof.Machine.execBidiTake s
  | .readReg n => Sys2Proof.Machine.execReadReg n s
  | .readBuf a => Sys2Proof.Machine.execReadBuf a s
  | .txUpdate => Sys2Proof.Machine.execTxUpdate s
  | .rxCapture ts => Sys2Proof.Machine.execRxCapture ts s
  | .bidiByte b => Sys2Proof.Machine.execBidiByte b s
  | .rxBidiFire => Sys2Proof.Machine.execRxBidiFire s

end Sys2Proof.Machine
end

