-- ==== Sys2Proof/Machine/Step.lean ====
section
/-! DEFINITION. One step of the block (00_scope.md R8; 60_exceptions.md R345): the port that has the turn
gives one whole transaction, which is performed. -/

namespace Sys2Proof.Machine

/-- R8, R70, R345. With no turn left the block waits (R371). A parameter set that breaks a constraint of R5
is refused. A transaction that does not decode raises its fault, and its words are consumed (R103, R104,
R105); one that decodes is performed on the state in which its words are consumed. -/
def step (s : State) : Host.Outcome State Fault Refusal :=
  if s.params.valid = false then .refused .invalidParams
  else
    match s.ports.turns with
    | [] => .next (await s)
    | port :: _ =>
      match fetch s port with
      | .incomplete => .next (await (turnPassed s))
      | .illegalOpcode => .next (raise .illegalOpcode (consumed port 1 s))
      | .fieldInvalid n => .next (raise .fieldInvalid (consumed port n s))
      | .cmd i n => exec i (consumed port n s)

/-- The state in which the transaction whose bits are the low `nbits` bits of `w` is the next on its port,
which has the next turn (log 16). -/
def State.withFetchWord (s : State) (nbits w : Nat) : State :=
  presented (tablePort nbits w) (tableWords nbits w) s

end Sys2Proof.Machine
end

