-- ==== Sys2Proof/Safety.lean ====
section
/-! DEFINITION. What the claims speak of: the invariant of the block, the bad states of 60_exceptions.md R330,
runs, and which bytes a step may change. -/

namespace Sys2Proof.Machine

/-- R330: "a model treats every state with `st.fault != 0` as a bad state". -/
def State.bad (s : State) : Prop := s.fault ≠ 0

/-! ### The invariant -/

/-- R22, R158: the stored configuration is one that INIT_TX accepts, with its lengths converted (R131). -/
structure CfgOk (p : Params) (cfg : TxCfg) : Prop where
  npMin : p.txPreambleMin ≤ cfg.np.toNat
  bit1Min : p.bit1MinUs ≤ cfg.bit1Us.toNat
  bit1Max : cfg.bit1Us.toNat ≤ p.bit1MaxUs
  bit0Min : p.bit0MinUs ≤ cfg.bit0Us.toNat
  bit1Ticks : cfg.bit1Ticks.toNat = cfg.bit1Us.toNat * p.ticksPerUs
  bit0Ticks : cfg.bit0Ticks.toNat = cfg.bit0Us.toNat * p.ticksPerUs
  bit1Range : 1 ≤ cfg.bit1Ticks.toNat ∧ cfg.bit1Ticks.toNat ≤ p.arrMax
  bit0Range : 1 ≤ cfg.bit0Ticks.toNat ∧ cfg.bit0Ticks.toNat ≤ p.arrMax
  cutout : cfg.bidi = true → ∀ ph ∈ cutoutPhases, 1 ≤ bidiTicks p ph ∧ bidiTicks p ph ≤ p.arrMax

/-- R24: the cursor names a slot of the frame. -/
def CursorOk (cfg : TxCfg) (actLen : Byte) (c : Cursor) : Prop :=
  match c.phase with
  | .preamble => c.byteIdx = 0 ∧ c.bitIdx.toNat < cfg.np.toNat
  | .data =>
    c.byteIdx.toNat ≤ actLen.toNat ∧ c.bitIdx.toNat ≤ 8 ∧ (c.byteIdx = actLen → c.bitIdx = 0)
  | .bidiStart | .bidiCh1 | .bidiCh2 | .bidiEnd =>
    cfg.bidi = true ∧ c.byteIdx = 0 ∧ c.bitIdx = 0 ∧ c.half = false

/-- R21: the timer is on. -/
abbrev RunState.on (r : RunState) : Prop := r = .running ∨ r = .halting

/-- R154: the cutout has begun and not ended when the cursor stands at one of these phases. -/
def Phase.inCutout : Phase → Bool
  | .bidiCh1 | .bidiCh2 | .bidiEnd => true
  | .preamble | .data | .bidiStart => false

/-- R154: the channel whose slot was emitted last. -/
def Phase.armed : Phase → Channel
  | .bidiCh2 => .ch1
  | .bidiEnd => .ch2
  | .preamble | .data | .bidiStart | .bidiCh1 => .none

/-- R154, R155, R160, R167, R251: the pins of a running engine follow the cursor. -/
structure PinsOk (cfg : TxCfg) (c : Cursor) (pol : Bool) (pins : Pins) : Prop where
  enables : pins.dacEn = c.phase.inCutout ∧ pins.bidiEn = c.phase.inCutout ∧ pins.brakeEn = c.phase.inCutout
  armed : pins.rcCh = c.phase.armed
  cutout : c.phase.inCutout = true → pins.trackP = false ∧ pins.trackN = false
  driven : c.phase.inCutout = false →
    (pins.trackP = false ∧ pins.trackN = false ∧ c = .first) ∨
    (pins.trackP = Bool.xor pol cfg.invert ∧ pins.trackN = Bool.xor (!pol) cfg.invert)
  trigger : pins.trigger = (cfg.trig && decide (c = { Cursor.first with half := true }))

/-- R21-R29: the transmit engine. -/
structure TxOk (p : Params) (tx : Tx) : Prop where
  /-- R21, R370 -/
  uninit : tx.run = .uninit → tx.cfg = Tx.reset.cfg ∧ tx.cursor = .first ∧ tx.actLen = 0 ∧
    tx.arrActive = 0 ∧ tx.arrPreload = 0
  /-- R22 -/
  cfg : tx.run ≠ .uninit → CfgOk p tx.cfg
  /-- R24 -/
  cursor : tx.run ≠ .uninit → CursorOk tx.cfg tx.actLen tx.cursor
  /-- R164 -/
  pol : tx.pol = tx.cursor.half
  /-- R26 -/
  mboxLen : tx.mboxLen.toNat ≤ p.pktCapacity
  /-- R157, R26 -/
  mboxEmpty : tx.mboxFull = false → tx.mboxLen = 0
  /-- R27 -/
  actLen : tx.actLen.toNat ≤ p.pktCapacity
  /-- R27 -/
  active : tx.run.on → 1 ≤ tx.actLen.toNat
  /-- R28 -/
  arrActive : tx.run.on → 1 ≤ tx.arrActive.toNat ∧ tx.arrActive.toNat ≤ p.arrMax
  /-- R28 -/
  arrPreload : tx.run.on → 1 ≤ tx.arrPreload.toNat ∧ tx.arrPreload.toNat ≤ p.arrMax
  /-- R23 -/
  stopReq : tx.stopReq = true → tx.run.on
  /-- R162 -/
  halting : tx.run = .halting → tx.stopReq = true ∧ tx.cursor = .first
  /-- R29: "All pins are 0 whenever `st.tx.run` is Uninit or Stopped." -/
  off : ¬ tx.run.on → tx.pins = .off
  /-- R154 -/
  pins : tx.run.on → PinsOk tx.cfg tx.cursor tx.pol tx.pins

/-- R31-R33: the transmit-side return channel. -/
structure BidiOk (p : Params) (b : Bidi) : Prop where
  threshold : b.threshold.toNat < 2 ^ p.dacBits
  n1 : b.n1.toNat ≤ ch1Bytes
  n2 : b.n2.toNat ≤ ch2Bytes
  sn1 : b.sn1.toNat ≤ ch1Bytes
  sn2 : b.sn2.toNat ≤ ch2Bytes

/-- R34-R37, R212: the receive engine. -/
structure RxOk (p : Params) (rx : Rx) : Prop where
  h : rx.h.toNat ≤ huntGoal p
  locked : rx.st ≠ .hunt → rx.h.toNat = huntGoal p
  idle : rx.st ≠ .data → rx.first = .none ∧ rx.bitcnt = 0 ∧ rx.acc = 0 ∧ rx.n = 0
  bitcnt : rx.bitcnt.toNat ≤ 8
  byteDone : rx.bitcnt = 8 → 1 ≤ rx.n.toNat ∧ rx.first ≠ .one
  n : rx.n.toNat ≤ p.rxCapacity
  lastTs : rx.lastTs.toNat < 2 ^ p.capBits
  noEdge : rx.tsValid = false → rx.lastTs = 0 ∧ rx.st = .hunt ∧ rx.h = 0
  readyLen : rx.readyLen = 0 ∨ (2 ≤ rx.readyLen.toNat ∧ rx.readyLen.toNat ≤ p.rxCapacity)
  ready : rx.ready = true → rx.readyLen ≠ 0
  osRef : rx.osRef.toNat < 2 ^ p.capBits
  disabled : rx.bidiEn = false → rx.os = .idle ∧ rx.osRef = 0 ∧ rx.win = .none
  window : (rx.os = .armedCh1 → rx.win = .none) ∧ (rx.os = .armedCh2 → rx.win = .ch1) ∧
    (rx.os = .idle → rx.win ≠ .ch1)

/-- R62: "Every byte of a region at or past the length its owner records is zero", and "Bytes at or past the
capacity (PKT_CAPACITY, RX_CAPACITY) are never written and stay zero". -/
structure TailsZero (s : State) : Prop where
  mbox : ∀ i < packetRegion, s.tx.mboxLen.toNat ≤ i ∨ s.params.pktCapacity ≤ i → s.mem.read (mboxBase + i) = 0
  act : ∀ i < packetRegion, s.tx.actLen.toNat ≤ i ∨ s.params.pktCapacity ≤ i → s.mem.read (actBase + i) = 0
  rxb : ∀ i < packetRegion, s.rx.n.toNat ≤ i ∨ s.params.rxCapacity ≤ i → s.mem.read (rxbBase + i) = 0
  rxr : ∀ i < packetRegion, s.rx.readyLen.toNat ≤ i ∨ s.params.rxCapacity ≤ i → s.mem.read (rxrBase + i) = 0
  braw1 : ∀ i < ch1Bytes, s.bidi.n1.toNat ≤ i → s.mem.read (brawBase + i) = 0
  braw2 : ∀ i < ch2Bytes, s.bidi.n2.toNat ≤ i → s.mem.read (brawBase + ch1Bytes + i) = 0
  bsnap1 : ∀ i < ch1Bytes, s.bidi.sn1.toNat ≤ i → s.mem.read (bsnapBase + i) = 0
  bsnap2 : ∀ i < ch2Bytes, s.bidi.sn2.toNat ≤ i → s.mem.read (bsnapBase + ch1Bytes + i) = 0

/-- R64: "last byte is the XOR of all preceding bytes". -/
abbrev ValidChecksum (bytes : List Byte) : Prop :=
  bytes.getLast? = some (bytes.dropLast.foldl (fun x b => x ^^^ b) 0)

/-- R64, R206: the packet in the ready slot, if there is one, has a valid checksum. -/
def ReadyChecksum (s : State) : Prop :=
  s.rx.readyLen ≠ 0 → ValidChecksum (s.mem.bytes rxrBase s.rx.readyLen.toNat)

/-- The invariant of the block. -/
structure Inv (s : State) : Prop where
  params : s.params.valid = true
  mem : s.mem.wf = true
  tails : TailsZero s
  tx : TxOk s.params s.tx
  bidi : BidiOk s.params s.bidi
  rx : RxOk s.params s.rx
  checksum : ReadyChecksum s
  /-- R331: "codes 8-255 are never written" -/
  fault : s.fault.toNat ≤ 7

/-! ### Runs -/

/-- The operations of a list, one after another, up to the first stop. -/
def execAll : List Instr → State → Host.Outcome State Fault Refusal
  | [], s => .next s
  | i :: rest, s =>
    match exec i s with
    | .next t => execAll rest t
    | .fault f => .fault f
    | .refused r => .refused r

/-- The states that runs reach: an instance is reset with a valid parameter set, any words wait on the ports
with any turns, and any number of steps follow; between steps more words and turns may arrive. -/
inductive Reachable : State → Prop
  | reset (p : Params) (h : p.valid = true) : Reachable (State.resetWith p)
  | arrive (s : State) (q : Ports) (h : Reachable s) : Reachable { s with ports := q }
  | step (s t : State) (h : Reachable s) (e : Sys2Proof.Machine.step s = .next t) : Reachable t

/-! ### What a step may change -/

/-- A buffer address of the region `base .. base + len - 1`. -/
def InRegion (base len a : Nat) : Prop := base ≤ a ∧ a < base + len

/-- A buffer address of the transmit side (R60, R349): MBOX, ACT, BRAW or BSNAP. -/
def TxAddress (a : Nat) : Prop :=
  InRegion mboxBase packetRegion a ∨ InRegion actBase packetRegion a ∨ InRegion brawBase bidiRegion a ∨
  InRegion bsnapBase bidiRegion a

/-- A buffer address of the receive side (R60, R349): RXB or RXR. -/
def RxAddress (a : Nat) : Prop := InRegion rxbBase packetRegion a ∨ InRegion rxrBase packetRegion a

/-- Every byte of the buffer space reads as before. -/
def SameMemory (s t : State) : Prop := ∀ a, t.mem.read a = s.mem.read a

/-- Every byte outside the set reads as before. -/
def SameMemoryOutside (P : Nat → Prop) (s t : State) : Prop := ∀ a, ¬ P a → t.mem.read a = s.mem.read a

/-- A step that gave no response, no reload and no fault. -/
def Quiet (t : State) : Prop := t.out = { kind := .done, resp := [], reload := none }

/-- R340: what a fault other than RELOAD_RANGE leaves: everything but FAULT (R330), no response. -/
def FaultedOnly (c : FaultCode) (s t : State) : Prop :=
  t.params = s.params ∧ t.tx = s.tx ∧ t.ovr = s.ovr ∧ t.bidi = s.bidi ∧ t.rx = s.rx ∧ SameMemory s t ∧
  t.ports = s.ports ∧ t.fault = (if s.fault = 0 then c.code else s.fault) ∧
  t.out = { kind := .faulted c, resp := [], reload := none }

/-- All of the block but FAULT, the outputs and the buffer space is as before. -/
def SameGroups (s t : State) : Prop :=
  t.params = s.params ∧ t.tx = s.tx ∧ t.ovr = s.ovr ∧ t.bidi = s.bidi ∧ t.rx = s.rx ∧ t.ports = s.ports

/-- R158, R336: the bounds of an accepted INIT_TX, written out. -/
structure AcceptedConfig (p : Params) (np : Byte) (bidi : Bool) (bit1Us bit0Us : BitVec 16) : Prop where
  np : p.txPreambleMin ≤ np.toNat ∧ np.toNat ≤ npMax
  bit1 : p.bit1MinUs ≤ bit1Us.toNat ∧ bit1Us.toNat ≤ p.bit1MaxUs
  bit0 : p.bit0MinUs ≤ bit0Us.toNat
  ticks1 : 1 ≤ bit1Us.toNat * p.ticksPerUs ∧ bit1Us.toNat * p.ticksPerUs ≤ p.arrMax
  ticks0 : 1 ≤ bit0Us.toNat * p.ticksPerUs ∧ bit0Us.toNat * p.ticksPerUs ≤ p.arrMax
  slots : bidi = true →
    (1 ≤ p.dBidiStartUs * p.ticksPerUs ∧ p.dBidiStartUs * p.ticksPerUs ≤ p.arrMax) ∧
    (1 ≤ p.dBidiCh1Us * p.ticksPerUs ∧ p.dBidiCh1Us * p.ticksPerUs ≤ p.arrMax) ∧
    (1 ≤ p.dBidiCh2Us * p.ticksPerUs ∧ p.dBidiCh2Us * p.ticksPerUs ≤ p.arrMax) ∧
    (1 ≤ p.dBidiEndUs * p.ticksPerUs ∧ p.dBidiEndUs * p.ticksPerUs ≤ p.arrMax)

/-- R104, R332: the headers that are illegal on a port, by the ranges the rules list. -/
def IllegalOn (port : Port) (opc : Nat) : Prop :=
  opc = 0x00 ∨ (0x0D ≤ opc ∧ opc ≤ 0x7F) ∨ 0x84 ≤ opc ∨
  (port = .host ∧ 0x80 ≤ opc ∧ opc ≤ 0x83) ∨ (port = .event ∧ 0x01 ≤ opc ∧ opc ≤ 0x0C)

/-- R95: payload byte `k` of PACKET. -/
def payloadByte (payload : List Word) (k : Nat) : Byte := (payload.getD (k / 4) 0).extractLsb' (8 * (k % 4)) 8

/-- R333: a transaction whose reserved bits are not all 0, by the list of that rule (`a` and `b` are the
header's fields A and B). -/
def ReservedNonzero (p : Params) (op : Op) (a : Byte) (b : BitVec 16) (payload : List Word) : Prop :=
  match op with
  | .initTx => b.toNat / 2 ^ 3 ≠ 0
  | .packet => b ≠ 0 ∨ ∃ k, a.toNat ≤ k ∧ k < 4 * payload.length ∧ payloadByte payload k ≠ 0
  | .start | .stop | .setOvrMask | .rxTake | .bidiTake | .txUpdate | .rxBidiFire => a ≠ 0 ∨ b ≠ 0
  | .setOvrDelta | .rxInit => a.toNat / 2 ≠ 0 ∨ b ≠ 0
  | .setBidiThreshold => a ≠ 0 ∨ b.toNat / 2 ^ p.dacBits ≠ 0
  | .readReg | .readBuf | .bidiByte => b ≠ 0
  | .rxCapture => a ≠ 0 ∨ b ≠ 0 ∨ (payload.getD 0 0).toNat / 2 ^ p.capBits ≠ 0

/-- R39: the register numbers that are assigned. -/
def AssignedRegister (n : Nat) : Prop := n ≤ 0x0E ∨ (0x10 ≤ n ∧ n ≤ 0x13) ∨ n = 0x1F

/-- R157, R170: ACT and `act_len` hold the packet that the mailbox of `s` holds, or the idle packet. -/
def LatchedFrom (s t : State) : Prop :=
  if s.tx.mboxFull = true ∧ 1 ≤ s.tx.mboxLen.toNat then
    t.tx.actLen = s.tx.mboxLen ∧ ∀ i < packetRegion, t.mem.read (actBase + i) = s.mem.read (mboxBase + i)
  else
    t.tx.actLen.toNat = s.params.idlePacket.length ∧
    ∀ i < packetRegion, t.mem.read (actBase + i) = s.params.idlePacket.getD i 0

/-- R157: the mailbox is read and cleared. -/
def MailboxCleared (t : State) : Prop :=
  t.tx.mboxFull = false ∧ t.tx.mboxLen = 0 ∧ ∀ i < packetRegion, t.mem.read (mboxBase + i) = 0

/-- R207: the receiver is back at hunting, with an empty RXB. -/
def BackToHunt (s t : State) (ts : Word) : Prop :=
  t.rx = { s.rx with st := .hunt, h := 0, first := .none, bitcnt := 0, acc := 0, n := 0, lastTs := ts, tsValid := true } ∧
  (∀ i < packetRegion, t.mem.read (rxbBase + i) = 0) ∧ SameMemoryOutside (InRegion rxbBase packetRegion) s t

/-- R202, R206: RX_CAPTURE of `ts` ends the first half of an end bit, and the packet before it is accepted. -/
def AcceptsPacket (s : State) (ts : Word) : Prop :=
  ts.toNat < 2 ^ s.params.capBits ∧ s.rx.tsValid = true ∧ s.rx.st = .data ∧ s.rx.first = .none ∧
  s.rx.bitcnt = 8 ∧ classify s.params (interval s ts) = .one ∧ 2 ≤ s.rx.n.toNat ∧
  ValidChecksum (s.mem.bytes rxbBase s.rx.n.toNat)

/-- What RX_CAPTURE never changes, and that it gives no response. -/
def CaptureFrame (s t : State) : Prop :=
  t.params = s.params ∧ t.tx = s.tx ∧ t.ovr = s.ovr ∧ t.bidi = s.bidi ∧ t.fault = s.fault ∧ t.ports = s.ports ∧
  Quiet t ∧ SameMemoryOutside RxAddress s t

/-! ### The receiver fed with intervals -/

/-- The classes of the intervals that a sequence of captures measures after an edge at `last` (R200, R202). -/
def classesFrom (p : Params) (last : Word) : List Word → List HalfClass
  | [] => []
  | ts :: rest => classify p ((ts - last).toNat % 2 ^ p.capBits) :: classesFrom p ts rest

/-- The timestamps of the edges that end the intervals `ds`, after an edge at `last` (R211). -/
def timestampsFrom (p : Params) (last : Word) : List Nat → List Word
  | [] => []
  | d :: rest =>
    let ts := capMod p (last.toNat + d)
    ts :: timestampsFrom p ts rest

/-- R151, R150: the bit that a slot of a frame of the packet `bytes` carries; a preamble bit is 1. -/
def slotBit (bytes : List Byte) (c : Cursor) : Bool :=
  match c.phase with
  | .data =>
    if c.bitIdx = 0 then decide (c.byteIdx.toNat = bytes.length)
    else (bytes.getD c.byteIdx.toNat 0).getLsbD (8 - c.bitIdx.toNat)
  | .preamble | .bidiStart | .bidiCh1 | .bidiCh2 | .bidiEnd => true

/-- The class of a half of a bit (R200). -/
def classOfBit (b : Bool) : HalfClass := if b then .one else .zero

end Sys2Proof.Machine
end

