-- ==== Sys2Proof/Certificates/Slice0/Obligations.lean ====
section
/-! DEFINITION. The statements for the provers, from the numbered rules of spec/. Each docstring names the
rules; OBLIGATIONS.json lists them. -/

open Sys2Proof Sys2Proof.Machine

/-! ### Encoding (30_encoding.md) -/

/-- R94-R101, R105, R107: decoding the words of a well-formed operation, whatever words follow, gives the
operation back, for every operand value. -/
def Obligations.DecodeOfEncode : Prop :=
  ∀ (p : Params) (i : Instr) (rest : List Word), i.wf p = true →
    decode p i.port (encode i ++ rest) = .cmd i (encode i).length

/-- R92-R101, R105: words that decode to an operation are that operation's encoding: no word has a second
reading, and a decoded operation is well-formed. -/
def Obligations.EncodeOfDecode : Prop :=
  ∀ (p : Params) (port : Port) (ws : List Word) (i : Instr) (n : Nat), decode p port ws = .cmd i n →
    i.port = port ∧ i.wf p = true ∧ (encode i).length = n ∧ ws.take n = encode i

/-- R92, R93, R105: a header whose opcode is a row's, with the row's number of payload words and every reserved
bit 0, decodes to an operation of that row, and all its words are taken. -/
def Obligations.LegalTransactionDecodes : Prop :=
  ∀ (p : Params) (op : Op) (a : Byte) (b : BitVec 16) (payload rest : List Word),
    payload.length + 1 = op.words a → ¬ ReservedNonzero p op a b payload →
    ∃ i, i.op = op ∧
      decode p op.port (headerWord op.code a b :: (payload ++ rest)) = .cmd i (payload.length + 1)

/-- R103: "A transaction with a nonzero reserved bit faults FIELD_INVALID and has no other effect; its payload
words are still consumed." The reserved bits are those R333 lists. -/
def Obligations.ReservedBitFaultsFieldInvalid : Prop :=
  ∀ (s : State) (op : Op) (a : Byte) (b : BitVec 16) (payload rest : List Word) (turns : List Port),
    s.params.valid = true → s.ports.turns = op.port :: turns →
    s.ports.words op.port = headerWord op.code a b :: (payload ++ rest) →
    payload.length + 1 = op.words a → ReservedNonzero s.params op a b payload →
    ∃ t, step s = .next t ∧ t.ports.words op.port = rest ∧ t.ports.turns = turns ∧
      (∀ q, q ≠ op.port → t.ports.words q = s.ports.words q) ∧
      FaultedOnly .fieldInvalid { s with ports := t.ports } t

/-- R332: a header with an illegal opcode, and no other, is illegal; it raises ILLEGAL_OPCODE and "Only the
header word is consumed." -/
def Obligations.IllegalOpcodeFaults : Prop :=
  ∀ (s : State) (port : Port) (w0 : Word) (rest : List Word) (turns : List Port),
    s.params.valid = true → s.ports.turns = port :: turns → s.ports.words port = w0 :: rest →
    (decode s.params port (w0 :: rest) = .illegalOpcode ↔ IllegalOn port (w0.toNat % 256)) ∧
    (IllegalOn port (w0.toNat % 256) →
      ∃ t, step s = .next t ∧ t.ports.words port = rest ∧ t.ports.turns = turns ∧
        (∀ q, q ≠ port → t.ports.words q = s.ports.words q) ∧
        FaultedOnly .illegalOpcode { s with ports := t.ports } t)

/-- R94-R101: the example words of these rules, every one of them, decode to what they stand for. -/
def Obligations.ExampleWordsDecode : Prop :=
  ∀ (rest : List Word),
    decode .reference .host (0x00000E01 :: 0x0064003A :: rest) = .cmd (.initTx 14 false false false 58 100) 2 ∧
    decode .reference .host (0x00000302 :: 0x00828103 :: rest) = .cmd (.packet [0x03, 0x81, 0x82]) 2 ∧
    decode .reference .host (0x00000002 :: rest) = .cmd (.packet []) 1 ∧
    decode .reference .host (0x00000005 :: 0x00000001 :: 0x00000000 :: rest) = .cmd (.setOvrMask 1) 3 ∧
    decode .reference .host (0x00000106 :: 0xFFFFFFF6 :: rest) = .cmd (.setOvrDelta .n (-10)) 2 ∧
    decode .reference .host (0x01230007 :: rest) = .cmd (.setBidiThreshold 0x123) 1 ∧
    decode .reference .host (0x00000108 :: rest) = .cmd (.rxInit true) 1 ∧
    decode .reference .host (0x00001F0B :: rest) = .cmd (.readReg 0x1F) 1 ∧
    decode .reference .host (0x0000200C :: rest) = .cmd (.readBuf 0x20) 1 ∧
    decode .reference .event (0x00000081 :: 0x000003E8 :: rest) = .cmd (.rxCapture 1000) 2 ∧
    decode .reference .event (0x00009982 :: rest) = .cmd (.bidiByte 0x99) 1

/-! ### One step (00_scope.md R8, 60_exceptions.md R345) -/

/-- R8, R70, R105: when the words waiting on the port that has the turn begin with a well-formed operation's
words, the step is that operation, performed on the state in which those words are consumed and the turn is
taken; nothing else is different in that state. The turns are the model's form of the interleaving (log 1). -/
def Obligations.StepRunsDecodedTransaction : Prop :=
  ∀ (s : State) (i : Instr) (rest : List Word) (turns : List Port),
    s.params.valid = true → i.wf s.params = true → s.ports.turns = i.port :: turns →
    s.ports.words i.port = encode i ++ rest →
    ∃ q : Ports, q.words i.port = rest ∧ q.turns = turns ∧
      (∀ r, r ≠ i.port → q.words r = s.ports.words r) ∧ step s = exec i { s with ports := q }

/-! ### Reset (70_reset_and_hazards.md R370, R371) -/

/-- R370, R371: after reset every register reads 0, every buffer byte is 0, every pin is off, the three indications are
0, of the event agents RxCapture and Uart are enabled and TxTimer and OneShot are not, and the receive state is the one
RX_INIT with `bidi_en = 0` leaves. -/
def Obligations.ResetStateReadsZero : Prop :=
  ∀ p : Params, p.valid = true →
    (∀ n : Byte, AssignedRegister n.toNat → reg (State.resetWith p) n = some 0) ∧
    (∀ a, (State.resetWith p).mem.read a = 0) ∧ (State.resetWith p).tx.pins = .off ∧
    irqRx (State.resetWith p) = false ∧ irqBidi (State.resetWith p) = false ∧
    irqFault (State.resetWith p) = false ∧
    Agent.enabled (State.resetWith p) .txTimer = false ∧ Agent.enabled (State.resetWith p) .oneShot = false ∧
    Agent.enabled (State.resetWith p) .rxCapture = true ∧ Agent.enabled (State.resetWith p) .uart = true ∧
    ∃ t, exec (.rxInit false) (State.resetWith p) = .next t ∧ t.rx = (State.resetWith p).rx ∧
      t.mem = (State.resetWith p).mem

/-! ### Transmit engine: the host's commands (41_tx_engine.md R158-R161) -/

/-- R158: INIT_TX in Uninit or Stopped, with a configuration within the bounds, stores it and resets the
transmit state and the return-channel buffers; the override, the threshold and the receive side are left. -/
def Obligations.InitTxConfigures : Prop :=
  ∀ (s : State) (np : Byte) (bidi invert trig : Bool) (bit1Us bit0Us : BitVec 16),
    s.params.valid = true → s.mem.wf = true → s.tx.run = .uninit ∨ s.tx.run = .stopped →
    AcceptedConfig s.params np bidi bit1Us bit0Us →
    ∃ t, exec (.initTx np bidi invert trig bit1Us bit0Us) s = .next t ∧
      t.tx.run = .stopped ∧ t.tx.stopReq = false ∧ t.tx.cursor = .first ∧ t.tx.pol = false ∧
      t.tx.cfg.np = np ∧ t.tx.cfg.bit1Us = bit1Us ∧ t.tx.cfg.bit0Us = bit0Us ∧
      t.tx.cfg.bit1Ticks.toNat = bit1Us.toNat * s.params.ticksPerUs ∧
      t.tx.cfg.bit0Ticks.toNat = bit0Us.toNat * s.params.ticksPerUs ∧
      t.tx.cfg.bidi = bidi ∧ t.tx.cfg.invert = invert ∧ t.tx.cfg.trig = trig ∧
      t.tx.mboxFull = false ∧ t.tx.mboxLen = 0 ∧ t.tx.actLen = 0 ∧ t.tx.arrActive = 0 ∧
      t.tx.arrPreload = 0 ∧ t.tx.pins = .off ∧
      t.bidi = { threshold := s.bidi.threshold, n1 := 0, n2 := 0, sn1 := 0, sn2 := 0, ready := false } ∧
      t.params = s.params ∧ t.ovr = s.ovr ∧ t.rx = s.rx ∧ t.fault = s.fault ∧ t.ports = s.ports ∧ Quiet t ∧
      (∀ a, TxAddress a → t.mem.read a = 0) ∧ SameMemoryOutside TxAddress s t

/-- R336: "raised by INIT_TX when any bound of 41_tx_engine.md rule R158 fails", in Uninit or Stopped (R339: BUSY comes
first in the other states), by nothing else, and changing FAULT only. -/
def Obligations.ConfigInvalidFault : Prop :=
  (∀ (s : State) (np : Byte) (bidi invert trig : Bool) (bit1Us bit0Us : BitVec 16),
    s.tx.run = .uninit ∨ s.tx.run = .stopped → ¬ AcceptedConfig s.params np bidi bit1Us bit0Us →
    ∃ t, exec (.initTx np bidi invert trig bit1Us bit0Us) s = .next t ∧ FaultedOnly .configInvalid s t) ∧
  ∀ (i : Instr) (s t : State), exec i s = .next t → t.out.kind = .faulted .configInvalid →
    (s.tx.run = .uninit ∨ s.tx.run = .stopped) ∧
    ∃ np bidi invert trig bit1Us bit0Us, i = .initTx np bidi invert trig bit1Us bit0Us ∧
      ¬ AcceptedConfig s.params np bidi bit1Us bit0Us

/-- R159, R73: PACKET of at most PKT_CAPACITY bytes fills the mailbox, in every run state and over any packet
still pending, and changes nothing else: in particular not the active packet. -/
def Obligations.PacketFillsMailbox : Prop :=
  ∀ (s : State) (bytes : List Byte), s.params.valid = true → s.mem.wf = true →
    bytes.length ≤ s.params.pktCapacity →
    ∃ t, exec (.packet bytes) s = .next t ∧ t.tx.mboxLen.toNat = bytes.length ∧
      t.tx = { s.tx with mboxLen := t.tx.mboxLen, mboxFull := true } ∧
      (∀ i < packetRegion, t.mem.read (mboxBase + i) = bytes.getD i 0) ∧
      SameMemoryOutside (InRegion mboxBase packetRegion) s t ∧
      t.params = s.params ∧ t.ovr = s.ovr ∧ t.bidi = s.bidi ∧ t.rx = s.rx ∧ t.fault = s.fault ∧
      t.ports = s.ports ∧ Quiet t

/-- R337: "raised by PACKET when `len > PKT_CAPACITY`", and by nothing else. -/
def Obligations.PacketLengthFault : Prop :=
  (∀ (s : State) (bytes : List Byte), s.params.pktCapacity < bytes.length →
    ∃ t, exec (.packet bytes) s = .next t ∧ FaultedOnly .packetLength s t) ∧
  ∀ (i : Instr) (s t : State), exec i s = .next t → t.out.kind = .faulted .packetLength →
    ∃ bytes, i = .packet bytes ∧ s.params.pktCapacity < bytes.length

/-- R160, R157, R170: START in Stopped latches the mailbox's packet, or the idle packet, clears the mailbox and
begins a frame; the pins stay as they are until the first TX_UPDATE. -/
def Obligations.StartLatchesAndRuns : Prop :=
  ∀ s : State, s.params.valid = true → s.mem.wf = true → s.tx.run = .stopped →
    ∃ t, exec .start s = .next t ∧
      t.tx = { s.tx with
        run := .running, cursor := .first, pol := false, stopReq := false
        arrActive := s.tx.cfg.bit1Ticks, arrPreload := s.tx.cfg.bit1Ticks
        mboxFull := false, mboxLen := 0, actLen := t.tx.actLen } ∧
      LatchedFrom s t ∧ MailboxCleared t ∧
      SameMemoryOutside (fun a => InRegion mboxBase packetRegion a ∨ InRegion actBase packetRegion a) s t ∧
      t.params = s.params ∧ t.ovr = s.ovr ∧ t.bidi = s.bidi ∧ t.rx = s.rx ∧ t.fault = s.fault ∧
      t.ports = s.ports ∧ Quiet t

/-- R161: STOP sets `stop_req` in Running and has no effect in the other states. -/
def Obligations.StopRequests : Prop :=
  ∀ s : State, ∃ t, exec .stop s = .next t ∧
    (s.tx.run = .running → t.tx = { s.tx with stopReq := true }) ∧
    (s.tx.run ≠ .running → t.tx = s.tx) ∧
    SameMemory s t ∧ t.params = s.params ∧ t.ovr = s.ovr ∧ t.bidi = s.bidi ∧ t.rx = s.rx ∧
    t.fault = s.fault ∧ t.ports = s.ports ∧ Quiet t

/-- R334: "raised by START and by TX_UPDATE when `st.tx.run = Uninit`", by nothing else, and changing FAULT
only. -/
def Obligations.NotInitializedFault : Prop :=
  (∀ (i : Instr) (s : State), i = .start ∨ i = .txUpdate → s.tx.run = .uninit →
    ∃ t, exec i s = .next t ∧ FaultedOnly .notInitialized s t) ∧
  ∀ (i : Instr) (s t : State), exec i s = .next t → t.out.kind = .faulted .notInitialized →
    (i = .start ∨ i = .txUpdate) ∧ s.tx.run = .uninit

/-- R335: "raised by INIT_TX and by START when `st.tx.run` is Running or Halting", by nothing else, and changing
FAULT only. -/
def Obligations.BusyFault : Prop :=
  (∀ (i : Instr) (s : State), i.op = .initTx ∨ i.op = .start → s.tx.run = .running ∨ s.tx.run = .halting →
    ∃ t, exec i s = .next t ∧ FaultedOnly .busy s t) ∧
  ∀ (i : Instr) (s t : State), exec i s = .next t → t.out.kind = .faulted .busy →
    (i.op = .initTx ∨ i.op = .start) ∧ (s.tx.run = .running ∨ s.tx.run = .halting)

/-! ### Transmit engine: TX_UPDATE (41_tx_engine.md R162) -/

/-- R162, R153, R169: TX_UPDATE in Running, with a slot after the one it emits whose length is in
`[1, ARR_MAX]`: the preload becomes active, the cursor moves, and the length of the slot the cursor then names is
preloaded and returned. Nothing but the polarity, the pins, the return-channel buffers and those changes. -/
def Obligations.TxUpdateAdvances : Prop :=
  ∀ (s : State) (c : Cursor) (r : Int), Inv s → s.tx.run = .running →
    nextSlot s.tx.cfg s.tx.actLen s.tx.cursor = some c → dur s c = .ok r → 1 ≤ r → r ≤ s.params.arrMax →
    ∃ t, exec .txUpdate s = .next t ∧
      t.tx = { s.tx with
        cursor := c, arrActive := s.tx.arrPreload, arrPreload := t.tx.arrPreload
        pol := t.tx.pol, pins := t.tx.pins } ∧
      (t.tx.arrPreload.toNat : Int) = r ∧
      t.out = { kind := .done, resp := [], reload := some t.tx.arrPreload } ∧
      t.params = s.params ∧ t.ovr = s.ovr ∧ t.rx = s.rx ∧ t.fault = s.fault ∧ t.ports = s.ports ∧
      SameMemoryOutside (fun a => InRegion brawBase bidiRegion a ∨ InRegion bsnapBase bidiRegion a) s t ∧
      (s.tx.cursor.phase = .bidiStart ∨ s.tx.cursor.phase = .bidiEnd ∨ (t.bidi = s.bidi ∧ SameMemory s t))

/-- R162, R157: the wrap step of a frame: with no STOP pending the next frame's packet is latched, with one the
engine enters Halting and latches nothing; in both the cursor goes to the first slot of a frame and `bit1_ticks`
is preloaded and returned. -/
def Obligations.TxUpdateWraps : Prop :=
  ∀ s : State, Inv s → s.tx.run = .running → nextSlot s.tx.cfg s.tx.actLen s.tx.cursor = none →
    ∃ t, exec .txUpdate s = .next t ∧
      t.tx.cursor = .first ∧ t.tx.arrActive = s.tx.arrPreload ∧ t.tx.arrPreload = s.tx.cfg.bit1Ticks ∧
      t.tx.cfg = s.tx.cfg ∧ t.tx.stopReq = s.tx.stopReq ∧
      t.out = { kind := .done, resp := [], reload := some s.tx.cfg.bit1Ticks } ∧
      t.params = s.params ∧ t.ovr = s.ovr ∧ t.rx = s.rx ∧ t.fault = s.fault ∧ t.ports = s.ports ∧
      (∀ a, RxAddress a ∨ InRegion brawBase bidiRegion a → t.mem.read a = s.mem.read a) ∧
      (s.tx.cursor.phase ≠ .bidiEnd →
        t.bidi = s.bidi ∧ ∀ a, InRegion bsnapBase bidiRegion a → t.mem.read a = s.mem.read a) ∧
      (s.tx.stopReq = false → t.tx.run = .running ∧ LatchedFrom s t ∧ MailboxCleared t) ∧
      (s.tx.stopReq = true → t.tx.run = .halting ∧ t.tx.actLen = s.tx.actLen ∧
        t.tx.mboxFull = s.tx.mboxFull ∧ t.tx.mboxLen = s.tx.mboxLen ∧
        (∀ i < packetRegion, t.mem.read (actBase + i) = s.mem.read (actBase + i)) ∧
        ∀ i < packetRegion, t.mem.read (mboxBase + i) = s.mem.read (mboxBase + i))

/-- R162: TX_UPDATE in Halting turns every output off and stops the engine; no reload goes to the timer. In
Stopped there is no step (R8): nothing changes; that this is a next state is the model's choice (log 2). -/
def Obligations.TxUpdateHaltsAndStops : Prop :=
  ∀ s : State,
    (s.tx.run = .halting → ∃ t, exec .txUpdate s = .next t ∧
      t.tx = { s.tx with run := .stopped, stopReq := false, arrActive := s.tx.arrPreload, pins := .off } ∧
      t.params = s.params ∧ t.ovr = s.ovr ∧ t.bidi = s.bidi ∧ t.rx = s.rx ∧ t.fault = s.fault ∧
      t.ports = s.ports ∧ SameMemory s t ∧ Quiet t) ∧
    (s.tx.run = .stopped → ∃ t, exec .txUpdate s = .next t ∧ SameGroups s t ∧ t.fault = s.fault ∧
      SameMemory s t ∧ t.out = { kind := .noStep, resp := [], reload := none })

/-- R338: when the length of the next slot is outside `[1, ARR_MAX]`, TX_UPDATE raises RELOAD_RANGE: every other
change is discarded, the outputs go off, the engine is Stopped with no stop pending and its timer off; the cursor, the
polarity and the reload registers keep their values from before the step. No other operation raises it, and it is
raised only when the override adjusts the next slot: a "0" bit, with an adjustment that is not 0. -/
def Obligations.ReloadRangeStopsEngine : Prop :=
  (∀ (s : State) (c : Cursor) (r : Int), Inv s → s.tx.run = .running →
    nextSlot s.tx.cfg s.tx.actLen s.tx.cursor = some c → dur s c = .ok r → ¬ (1 ≤ r ∧ r ≤ s.params.arrMax) →
    ∃ t, exec .txUpdate s = .next t ∧
      t.tx = { s.tx with run := .stopped, stopReq := false, pins := .off } ∧ Agent.enabled t .txTimer = false ∧
      t.params = s.params ∧ t.ovr = s.ovr ∧ t.bidi = s.bidi ∧ t.rx = s.rx ∧ t.ports = s.ports ∧
      SameMemory s t ∧ t.fault = (if s.fault = 0 then 7 else s.fault) ∧
      t.out = { kind := .faulted .reloadRange, resp := [], reload := none }) ∧
  ∀ (i : Instr) (s t : State), Inv s → exec i s = .next t → t.out.kind = .faulted .reloadRange →
    i = .txUpdate ∧ s.tx.run = .running ∧
    ∃ c, nextSlot s.tx.cfg s.tx.actLen s.tx.cursor = some c ∧ c.phase = .data ∧
      bitval s c.byteIdx c.bitIdx = .ok false ∧ ovrAdjust s false (bitPosition c.byteIdx c.bitIdx) c.half ≠ 0

/-- R164: in a state the invariant allows, TX_UPDATE emitting a Preamble or Data slot with half `h` leaves
`pol = 1` for `h = 0` and `pol = 0` for `h = 1`, and drives the two track pins with that level and its complement,
both inverted by `invert`; the enables and the channel selection stay off. -/
def Obligations.PolarityFollowsHalf : Prop :=
  ∀ s t : State, Inv s → s.tx.run = .running →
    s.tx.cursor.phase = .preamble ∨ s.tx.cursor.phase = .data →
    exec .txUpdate s = .next t → t.out.kind = .done →
    t.tx.pol = !s.tx.cursor.half ∧
    t.tx.pins.trackP = Bool.xor (!s.tx.cursor.half) s.tx.cfg.invert ∧
    t.tx.pins.trackN = Bool.xor s.tx.cursor.half s.tx.cfg.invert ∧
    t.tx.pins.bidiEn = false ∧ t.tx.pins.brakeEn = false ∧ t.tx.pins.dacEn = false ∧
    t.tx.pins.rcCh = .none

/-- R154, R251: the four cutout slots. BiDiStart undrives the track, enables the cutout and clears the raw buffer;
BiDiCh1 and BiDiCh2 select their channel; BiDiEnd drives the track again at the unchanged polarity, turns the
enables off and copies the raw buffer and its counts to the snapshot. DAC_OUT is the threshold in the first three
and 0 after the last. -/
def Obligations.CutoutSlots : Prop :=
  ∀ s t : State, Inv s → s.tx.run = .running → exec .txUpdate s = .next t → t.out.kind = .done →
    (s.tx.cursor.phase = .bidiStart →
      t.tx.pins = { s.tx.pins with
        trackP := false, trackN := false, bidiEn := true, brakeEn := true, dacEn := true, trigger := false } ∧
      t.tx.pol = s.tx.pol ∧ t.bidi = { s.bidi with n1 := 0, n2 := 0 } ∧
      (∀ i < bidiRegion, t.mem.read (brawBase + i) = 0) ∧
      SameMemoryOutside (InRegion brawBase bidiRegion) s t ∧ dacOut t = s.bidi.threshold) ∧
    (s.tx.cursor.phase = .bidiCh1 →
      t.tx.pins = { s.tx.pins with rcCh := .ch1, trigger := false } ∧ t.tx.pol = s.tx.pol ∧
      t.bidi = s.bidi ∧ SameMemory s t ∧ dacOut t = s.bidi.threshold) ∧
    (s.tx.cursor.phase = .bidiCh2 →
      t.tx.pins = { s.tx.pins with rcCh := .ch2, trigger := false } ∧ t.tx.pol = s.tx.pol ∧
      t.bidi = s.bidi ∧ SameMemory s t ∧ dacOut t = s.bidi.threshold) ∧
    (s.tx.cursor.phase = .bidiEnd →
      t.tx.pins = { Pins.off with
        trackP := Bool.xor s.tx.pol s.tx.cfg.invert, trackN := Bool.xor (!s.tx.pol) s.tx.cfg.invert } ∧
      t.tx.pol = s.tx.pol ∧
      t.bidi = { s.bidi with sn1 := s.bidi.n1, sn2 := s.bidi.n2, ready := true } ∧
      (∀ i < bidiRegion, t.mem.read (bsnapBase + i) = s.mem.read (brawBase + i)) ∧
      (∀ i < bidiRegion, t.mem.read (brawBase + i) = s.mem.read (brawBase + i)) ∧ dacOut t = 0)

/-- R167: `TRIGGER` is 1 exactly during slot `(Preamble, 0, 0, 0)` of a frame, and only with `trig`: a TX_UPDATE that
emits a slot sets it so, one that emits none leaves it 0, and no other operation changes it. Without `trig` it is 0
in every state. -/
def Obligations.TriggerMarksFirstSlot : Prop :=
  (∀ s t : State, Inv s → exec .txUpdate s = .next t →
    (s.tx.run = .running → t.out.kind = .done →
      t.tx.pins.trigger = (s.tx.cfg.trig && decide (s.tx.cursor = .first))) ∧
    (s.tx.run ≠ .running ∨ t.out.kind ≠ .done → t.tx.pins.trigger = false)) ∧
  (∀ (i : Instr) (s t : State), Inv s → i ≠ .txUpdate → exec i s = .next t →
    t.tx.pins.trigger = s.tx.pins.trigger) ∧
  ∀ s : State, Inv s → s.tx.cfg.trig = false → s.tx.pins.trigger = false

/-- R169, R153, R134: the value a TX_UPDATE returns is the length of the slot after the one it emits, which the next
TX_UPDATE makes active: the returned value is the preload, and it is the length of the slot the cursor names. For a
Preamble slot that is `bit1_ticks`, for a cutout slot its own `D_*_US * TICKS_PER_US`; a Data slot's length is
OverrideAdjustsMaskedZeros. -/
def Obligations.ReloadIsNextSlotLength : Prop :=
  ∀ (s t : State) (r : Word), Inv s → exec .txUpdate s = .next t → t.out.reload = some r →
    t.tx.arrPreload = r ∧ t.tx.arrActive = s.tx.arrPreload ∧ dur t t.tx.cursor = .ok r.toNat ∧
    (t.tx.cursor.phase = .preamble → r = s.tx.cfg.bit1Ticks) ∧
    (t.tx.cursor.phase = .bidiStart → r.toNat = s.params.dBidiStartUs * s.params.ticksPerUs) ∧
    (t.tx.cursor.phase = .bidiCh1 → r.toNat = s.params.dBidiCh1Us * s.params.ticksPerUs) ∧
    (t.tx.cursor.phase = .bidiCh2 → r.toNat = s.params.dBidiCh2Us * s.params.ticksPerUs) ∧
    (t.tx.cursor.phase = .bidiEnd → r.toNat = s.params.dBidiEndUs * s.params.ticksPerUs) ∧
    ∀ u, exec .txUpdate t = .next u → u.out.kind = .done → u.tx.arrActive = r

/-- R157, R170: the active packet changes only at a latch or at INIT_TX. At a latch (START, or the TX_UPDATE that
wraps with no STOP pending) it becomes what the mailbox holds, or the idle packet. -/
def Obligations.ActivePacketChangesOnlyAtLatch : Prop :=
  ∀ (i : Instr) (s t : State), Inv s → exec i s = .next t →
    (t.tx.actLen = s.tx.actLen ∧
      ∀ k < packetRegion, t.mem.read (actBase + k) = s.mem.read (actBase + k)) ∨
    (LatchedFrom s t ∧ MailboxCleared t ∧
      ((i = .start ∧ s.tx.run = .stopped) ∨
       (i = .txUpdate ∧ s.tx.run = .running ∧ s.tx.stopReq = false ∧
         nextSlot s.tx.cfg s.tx.actLen s.tx.cursor = none))) ∨
    (i.op = .initTx ∧ t.tx.run = .stopped ∧ t.tx.actLen = 0 ∧
      ∀ k < packetRegion, t.mem.read (actBase + k) = 0)

/-- R168: `INIT_TX cfg; START; TX_UPDATE` and `INIT_TX cfg; INIT_TX cfg; START; TX_UPDATE` give the same state and
the same reload from any state in Uninit or Stopped, and both first half-periods last `bit1_ticks`. -/
def Obligations.InitTwiceIsInitOnce : Prop :=
  ∀ (s : State) (np : Byte) (bidi invert trig : Bool) (bit1Us bit0Us : BitVec 16),
    s.params.valid = true → s.mem.wf = true → s.tx.run = .uninit ∨ s.tx.run = .stopped →
    AcceptedConfig s.params np bidi bit1Us bit0Us →
    ∃ t r, execAll [.initTx np bidi invert trig bit1Us bit0Us, .start, .txUpdate] s = .next t ∧
      execAll [.initTx np bidi invert trig bit1Us bit0Us, .initTx np bidi invert trig bit1Us bit0Us, .start,
        .txUpdate] s = .next t ∧
      t.out.reload = some r ∧ t.tx.arrActive = r ∧ r.toNat = bit1Us.toNat * s.params.ticksPerUs

/-- R150, R152, R165: from the first slot, `next_slot` walks through the slots of the frame in the order of R150
and then wraps, and a frame has `2*np + 18*n + 2 + 4*bidi` slots. -/
def Obligations.NextSlotWalksFrame : Prop :=
  ∀ (cfg : TxCfg) (actLen : Byte), 1 ≤ cfg.np.toNat → actLen.toNat ≤ 254 →
    (frameSlots cfg.np.toNat actLen.toNat cfg.bidi).length =
      2 * cfg.np.toNat + 18 * actLen.toNat + 2 + (if cfg.bidi then 4 else 0) ∧
    (frameSlots cfg.np.toNat actLen.toNat cfg.bidi).head? = some .first ∧
    ∀ (k : Nat) (c : Cursor), (frameSlots cfg.np.toNat actLen.toNat cfg.bidi)[k]? = some c →
      nextSlot cfg actLen c = (frameSlots cfg.np.toNat actLen.toNat cfg.bidi)[k + 1]?

/-- R378: after STOP in Running, at most one frame of TX_UPDATEs and one more bring the engine to Stopped, with
every output off. -/
def Obligations.StopTakesAtMostOneFrame : Prop :=
  ∀ s : State, Inv s → s.tx.run = .running → s.tx.stopReq = true →
    ∃ k t, k ≤ frameLength s.tx.cfg.np.toNat s.tx.actLen.toNat s.tx.cfg.bidi + 1 ∧
      execAll (List.replicate k .txUpdate) s = .next t ∧ t.tx.run = .stopped ∧ t.tx.pins = .off

/-- R133: in every configured state `bit1_ticks < bit0_ticks`, so a half-period is `bit0_ticks` exactly for a "0"
bit. -/
def Obligations.OneBitsAreShorter : Prop :=
  ∀ s : State, Inv s → s.tx.run ≠ .uninit →
    s.tx.cfg.bit1Ticks.toNat < s.tx.cfg.bit0Ticks.toNat ∧
    ∀ b, halfPeriod b s.tx.cfg = s.tx.cfg.bit0Ticks ↔ b = false

/-! ### Zero-bit override (44_zero_bit_override.md) -/

/-- R302, R303, R48-R51: SET_OVR_MASK writes all 64 mask bits and SET_OVR_DELTA one delta, in every run state; the
registers read what was written; nothing else changes. -/
def Obligations.OverrideSettersWrite : Prop :=
  ∀ s : State,
    (∀ mask : BitVec 64, ∃ t, exec (.setOvrMask mask) s = .next t ∧
      t.ovr = { s.ovr with mask := mask } ∧ reg t 0x08 = some (mask.extractLsb' 0 32) ∧
      reg t 0x09 = some (mask.extractLsb' 32 32) ∧ t.params = s.params ∧ t.tx = s.tx ∧ t.bidi = s.bidi ∧
      t.rx = s.rx ∧ t.fault = s.fault ∧ t.ports = s.ports ∧ SameMemory s t ∧ Quiet t) ∧
    (∀ (sel : OvrSel) (delta : BitVec 32), ∃ t, exec (.setOvrDelta sel delta) s = .next t ∧
      t.ovr.mask = s.ovr.mask ∧
      (sel = .p → reg t 0x0A = some delta ∧ reg t 0x0B = reg s 0x0B) ∧
      (sel = .n → reg t 0x0B = some delta ∧ reg t 0x0A = reg s 0x0A) ∧ t.params = s.params ∧ t.tx = s.tx ∧
      t.bidi = s.bidi ∧ t.rx = s.rx ∧ t.fault = s.fault ∧ t.ports = s.ports ∧ SameMemory s t ∧ Quiet t)

/-- R151, R66, R300, R301: when ACT holds the bytes of the active packet, the bit of a Data slot is the end bit 1 or a
start or separator bit 0 for `k = 0`, else bit `8 - k` of byte `j`, most significant first (an order the spec marks as
general knowledge, log 14). The length of a Data slot is the half-period of its bit, plus, for a "0" bit at a masked
position below 64, `deltaP` on the P-phase half and `deltaN` on the other. -/
def Obligations.OverrideAdjustsMaskedZeros : Prop :=
  (∀ (s : State) (bytes : List Byte) (j k : Byte) (half : Bool), s.tx.actLen.toNat = bytes.length →
    bytes.length ≤ packetRegion → s.mem.bytes actBase bytes.length = bytes →
    k.toNat ≤ 8 → (k = 0 ∨ j.toNat < bytes.length) →
    bitval s j k = .ok (slotBit bytes { phase := .data, byteIdx := j, bitIdx := k, half := half }) ∧
    (k = 0 → bitval s j k = .ok (decide (j.toNat = bytes.length))) ∧
    (k ≠ 0 → bitval s j k = .ok ((bytes.getD j.toNat 0).getLsbD (8 - k.toNat)))) ∧
  ∀ (s : State) (c : Cursor) (b : Bool), c.phase = .data → bitval s c.byteIdx c.bitIdx = .ok b →
    let pos := 9 * c.byteIdx.toNat + c.bitIdx.toNat
    (b = true → dur s c = .ok s.tx.cfg.bit1Ticks.toNat) ∧
    (b = false → (64 ≤ pos ∨ s.ovr.mask.getLsbD pos = false) → dur s c = .ok s.tx.cfg.bit0Ticks.toNat) ∧
    (b = false → pos < 64 → s.ovr.mask.getLsbD pos = true →
      (c.half = !s.params.ovrPFirst → dur s c = .ok (s.tx.cfg.bit0Ticks.toNat + s.ovr.dP.toInt)) ∧
      (c.half = s.params.ovrPFirst → dur s c = .ok (s.tx.cfg.bit0Ticks.toNat + s.ovr.dN.toInt)))

/-- R304: the override never touches a "1" bit: when every masked position of the frame is a "1" bit, TX_UPDATE
gives the same reload and the same transmit state whatever the deltas are; preamble, end-bit and cutout lengths are
never adjusted. -/
def Obligations.OverrideNeverTouchesOnes : Prop :=
  (∀ (s : State) (pos : Nat) (half : Bool), ovrAdjust s true pos half = 0) ∧
  (∀ (s : State) (c : Cursor) (o : Ovr), c.phase ≠ .data ∨ (c.byteIdx = s.tx.actLen ∧ c.bitIdx = 0) →
    dur { s with ovr := o } c = dur s c) ∧
  ∀ (s t : State) (dP dN : BitVec 32), Inv s →
    (∀ j k : Byte, j.toNat < s.tx.actLen.toNat → k.toNat ≤ 8 → bitval s j k = .ok false →
      9 * j.toNat + k.toNat < 64 → s.ovr.mask.getLsbD (9 * j.toNat + k.toNat) = false) →
    exec .txUpdate s = .next t →
    ∃ u, exec .txUpdate { s with ovr := { s.ovr with dP := dP, dN := dN } } = .next u ∧
      u.out = t.out ∧ u.tx = t.tx

/-- R305: an override value set between two TX_UPDATE steps affects the slot whose length the second step
computes, never the slot already in the preload register. -/
def Obligations.OverrideChangeSparesPreload : Prop :=
  ∀ (i : Instr) (s s' t : State) (r : Word), Inv s → i.op = .setOvrMask ∨ i.op = .setOvrDelta →
    exec i s = .next s' → exec .txUpdate s' = .next t → t.out.reload = some r →
    t.tx.arrActive = s.tx.arrPreload ∧ t.ovr = s'.ovr ∧ dur t t.tx.cursor = .ok r.toNat

/-! ### Return channel (43_bidi.md) -/

/-- R250, R251, R52, R54: SET_BIDI_THRESHOLD of a value of DAC_BITS bits sets the threshold, in every run state,
and DAC_OUT follows at once while the DAC is enabled; a wider value, which no words decode to, faults FIELD_INVALID
(the model's choice, log 9). -/
def Obligations.ThresholdSetAndDriven : Prop :=
  ∀ (s : State) (v : BitVec 16),
    (v.toNat < 2 ^ s.params.dacBits → ∃ t, exec (.setBidiThreshold v) s = .next t ∧
      t.bidi = { s.bidi with threshold := v } ∧ reg t 0x0C = some (v.zeroExtend 32) ∧
      dacOut t = (if s.tx.pins.dacEn then v else 0) ∧ reg t 0x0E = some ((dacOut t).zeroExtend 32) ∧
      t.params = s.params ∧ t.tx = s.tx ∧ t.ovr = s.ovr ∧ t.rx = s.rx ∧ t.fault = s.fault ∧
      t.ports = s.ports ∧ SameMemory s t ∧ Quiet t) ∧
    (2 ^ s.params.dacBits ≤ v.toNat → ∃ t, exec (.setBidiThreshold v) s = .next t ∧
      FaultedOnly .fieldInvalid s t)

/-- R252: BIDI_BYTE stores its byte at the next free place of the armed channel and counts it; with no channel
armed or the channel full the byte is dropped and nothing changes. It is never a fault. -/
def Obligations.BidiByteStoresOrDrops : Prop :=
  ∀ (s : State) (b : Byte), s.mem.wf = true →
    ∃ t, exec (.bidiByte b) s = .next t ∧
      (∀ a, bidiStoreAddr s = some a → t.mem.read a = b ∧ SameMemoryOutside (fun x => x = a) s t) ∧
      (bidiStoreAddr s = none → SameMemory s t ∧ t.bidi = s.bidi) ∧
      (s.tx.pins.rcCh = .ch1 → s.bidi.n1.toNat < 2 →
        bidiStoreAddr s = some (0x80 + s.bidi.n1.toNat) ∧ t.bidi.n1.toNat = s.bidi.n1.toNat + 1 ∧
        t.bidi = { s.bidi with n1 := t.bidi.n1 }) ∧
      (s.tx.pins.rcCh = .ch2 → s.bidi.n2.toNat < 6 →
        bidiStoreAddr s = some (0x82 + s.bidi.n2.toNat) ∧ t.bidi.n2.toNat = s.bidi.n2.toNat + 1 ∧
        t.bidi = { s.bidi with n2 := t.bidi.n2 }) ∧
      (s.tx.pins.rcCh = .none ∨ (s.tx.pins.rcCh = .ch1 ∧ 2 ≤ s.bidi.n1.toNat) ∨
        (s.tx.pins.rcCh = .ch2 ∧ 6 ≤ s.bidi.n2.toNat) → bidiStoreAddr s = none) ∧
      t.params = s.params ∧ t.tx = s.tx ∧ t.ovr = s.ovr ∧ t.rx = s.rx ∧ t.fault = s.fault ∧
      t.ports = s.ports ∧ Quiet t

/-- R254, R102, R71: BIDI_TAKE returns the snapshot's counts and bytes and clears `ready`, in one step; with
nothing ready, and so when repeated, it returns three zero words. -/
def Obligations.BidiTakeReturnsSnapshot : Prop :=
  ∀ s : State, ∃ t, exec .bidiTake s = .next t ∧
    t.bidi = { s.bidi with ready := false } ∧ t.out.kind = .done ∧ t.out.reload = none ∧
    (s.bidi.ready = false → t.out.resp = [0, 0, 0]) ∧
    (s.bidi.ready = true → ∃ w0 w1 w2, t.out.resp = [w0, w1, w2] ∧
      w0.toNat = s.bidi.sn2.toNat * 2 ^ 12 + s.bidi.sn1.toNat * 2 ^ 8 + 1 ∧
      unpackBytes [w1, w2] = s.mem.bytes bsnapBase bidiRegion) ∧
    SameMemory s t ∧ t.params = s.params ∧ t.tx = s.tx ∧ t.ovr = s.ovr ∧ t.rx = s.rx ∧ t.fault = s.fault ∧
    t.ports = s.ports ∧
    ∃ u, exec .bidiTake t = .next u ∧ u.out.resp = [0, 0, 0]

/-- R260, R259: the walk over the first `n2` bytes of channel 2, for every valid `DG_SYMS`. With none left it ends. A
whole datagram of `L` data symbols gives one entry, whose identifier is the top four and whose payload the other bits of
the number of `6L` bits that the symbols make, the first one highest, and the walk goes on behind it; a datagram with a
symbol that is not data is skipped whole; an invalid byte or one with an undefined identifier is skipped alone; a special
byte is an entry of its own; a datagram cut off by the end of the `n2` bytes ends the walk, whatever stands behind. -/
def Obligations.DissectChannelTwo : Prop :=
  ∀ (p : Params) (b : Byte) (bs : List Byte) (n : Nat), p.valid = true → n ≤ bs.length →
    dissect2 p bs 0 = [] ∧
    (rcDecode p b = .invalid → dissect2 p (b :: bs) (n + 1) = dissect2 p bs n) ∧
    (∀ k, specialOf (rcDecode p b) = some k → dissect2 p (b :: bs) (n + 1) = .special k :: dissect2 p bs n) ∧
    (∀ v, rcDecode p b = .data v → dgSymsOf p (v.extractLsb' 2 4) = none →
      dissect2 p (b :: bs) (n + 1) = dissect2 p bs n) ∧
    (∀ v l, rcDecode p b = .data v → dgSymsOf p (v.extractLsb' 2 4) = some l → n + 1 < l →
      dissect2 p (b :: bs) (n + 1) = []) ∧
    (∀ (v : BitVec 6) (l : Nat) (vs : Nat → BitVec 6), rcDecode p b = .data v →
      dgSymsOf p (v.extractLsb' 2 4) = some l → l ≤ n + 1 →
      (∀ k < l, rcDecode p ((b :: bs).getD k 0) = .data (vs k)) →
      ∃ payload, payload < 2 ^ (6 * l - 4) ∧
        (v.extractLsb' 2 4).toNat * 2 ^ (6 * l - 4) + payload =
          ((List.range l).map fun k => (vs k).toNat * 64 ^ (l - 1 - k)).sum ∧
        dissect2 p (b :: bs) (n + 1) =
          .dg 2 (v.extractLsb' 2 4) payload :: dissect2 p ((b :: bs).drop l) (n + 1 - l)) ∧
    (∀ v l, rcDecode p b = .data v → dgSymsOf p (v.extractLsb' 2 4) = some l → l ≤ n + 1 →
      (∃ k < l, ∀ w, rcDecode p ((b :: bs).getD k 0) ≠ .data w) →
      dissect2 p (b :: bs) (n + 1) = dissect2 p ((b :: bs).drop l) (n + 1 - l))

/-- R258: in channel 1, two data symbols give one datagram of 12 bits, identifier first; for every other pair, and for
fewer bytes, only the special symbols are entries, in order: invalid and unpaired data symbols yield nothing. -/
def Obligations.DissectChannelOne : Prop :=
  ∀ (p : Params) (x y : Byte),
    (∀ v w, rcDecode p x = .data v → rcDecode p y = .data w →
      ∃ id pl, dissect1 p [x, y] 2 = [.dg 1 id pl] ∧ id.toNat * 256 + pl = v.toNat * 64 + w.toNat ∧ pl < 256) ∧
    ((∀ v w, ¬ (rcDecode p x = .data v ∧ rcDecode p y = .data w)) →
      dissect1 p [x, y] 2 =
        ((specialOf (rcDecode p x)).toList ++ (specialOf (rcDecode p y)).toList).map .special) ∧
    dissect1 p [x, y] 1 = (specialOf (rcDecode p x)).toList.map .special ∧ dissect1 p [x, y] 0 = [] ∧
    (∀ k, specialOf (rcDecode p x) = some k ↔
      (rcDecode p x = .ack ∧ k = .ack) ∨ (rcDecode p x = .nack ∧ k = .nack) ∨ (rcDecode p x = .busy ∧ k = .busy))

/-! ### Receive engine (42_rx_engine.md) -/

/-- R201: RX_INIT resets the framing, forgets the edge, empties the ready slot, disarms the one-shot and stores
`bidi_en`; RXB and RXR are zero; nothing else changes. -/
def Obligations.RxInitResetsReceiver : Prop :=
  ∀ (s : State) (e : Bool), s.mem.wf = true →
    ∃ t, exec (.rxInit e) s = .next t ∧
      t.rx = { st := .hunt, h := 0, first := .none, bitcnt := 0, acc := 0, n := 0, tsValid := false
               lastTs := 0, ready := false, readyLen := 0, bidiEn := e, os := .idle, osRef := 0, win := .none } ∧
      (∀ a, RxAddress a → t.mem.read a = 0) ∧ SameMemoryOutside RxAddress s t ∧
      t.params = s.params ∧ t.tx = s.tx ∧ t.ovr = s.ovr ∧ t.bidi = s.bidi ∧ t.fault = s.fault ∧
      t.ports = s.ports ∧ Quiet t

/-- R202: RX_CAPTURE of a timestamp of CAP_BITS bits completes in every state of the invariant and records the
edge; `bidi_en` never changes, and the ready slot, its bytes, the one-shot and the window change only when a packet is
accepted (R206). A wider timestamp, which no words decode to, faults FIELD_INVALID (the model's choice, log 9). -/
def Obligations.CaptureRecordsEdge : Prop :=
  ∀ (s : State) (ts : Word), Inv s →
    (ts.toNat < 2 ^ s.params.capBits → ∃ t, exec (.rxCapture ts) s = .next t ∧ CaptureFrame s t ∧
      t.rx.lastTs = ts ∧ t.rx.tsValid = true ∧ t.rx.bidiEn = s.rx.bidiEn ∧
      (¬ AcceptsPacket s ts →
        t.rx.ready = s.rx.ready ∧ t.rx.readyLen = s.rx.readyLen ∧ t.rx.os = s.rx.os ∧ t.rx.osRef = s.rx.osRef ∧
        t.rx.win = s.rx.win ∧ ∀ i < packetRegion, t.mem.read (rxrBase + i) = s.mem.read (rxrBase + i)) ∧
      (s.rx.tsValid = false → t.rx = { s.rx with lastTs := ts, tsValid := true } ∧ SameMemory s t)) ∧
    (2 ^ s.params.capBits ≤ ts.toNat → ∃ t, exec (.rxCapture ts) s = .next t ∧ FaultedOnly .fieldInvalid s t)

/-- R200, R202, R207: an interval is ONE or ZERO exactly when it is in that band, both edges of the band included, and
INVALID when it is in neither; so an interval of 0 is ONE when `RX_ONE_MIN_US = 0`, which is the model's choice between
R200 and R202 (log 20). An interval in neither band resets the framing to Hunt, in every state of the receiver;
the ready slot, `bidi_en` and the one-shot are not touched, and it is no fault. -/
def Obligations.InvalidIntervalResetsFraming : Prop :=
  (∀ (p : Params) (d : Nat), p.valid = true →
    (classify p d = .one ↔ p.rxOneMinUs * p.rxTicksPerUs ≤ d ∧ d ≤ p.rxOneMaxUs * p.rxTicksPerUs) ∧
    (classify p d = .zero ↔ p.rxZeroMinUs * p.rxTicksPerUs ≤ d ∧ d ≤ p.rxZeroMaxUs * p.rxTicksPerUs) ∧
    (classify p d = .invalid ↔ d < p.rxOneMinUs * p.rxTicksPerUs ∨
      (p.rxOneMaxUs * p.rxTicksPerUs < d ∧ d < p.rxZeroMinUs * p.rxTicksPerUs) ∨
      p.rxZeroMaxUs * p.rxTicksPerUs < d)) ∧
  ∀ (s : State) (ts : Word), s.mem.wf = true → ts.toNat < 2 ^ s.params.capBits → s.rx.tsValid = true →
    classify s.params (interval s ts) = .invalid →
    ∃ t, exec (.rxCapture ts) s = .next t ∧ CaptureFrame s t ∧ BackToHunt s t ts

/-- R203: in Hunt a ONE half is counted up to `2 * RX_PREAMBLE_MIN`; a ZERO half after so many begins the start
bit, and an earlier one resets the count. -/
def Obligations.HuntCountsOneHalves : Prop :=
  ∀ (s : State) (ts : Word), Inv s → ts.toNat < 2 ^ s.params.capBits → s.rx.tsValid = true → s.rx.st = .hunt →
    (classify s.params (interval s ts) = .one → ∃ t, exec (.rxCapture ts) s = .next t ∧ CaptureFrame s t ∧
      t.rx = { s.rx with h := t.rx.h, lastTs := ts } ∧ SameMemory s t ∧
      t.rx.h.toNat = min (s.rx.h.toNat + 1) (2 * s.params.rxPreambleMin)) ∧
    (classify s.params (interval s ts) = .zero → ∃ t, exec (.rxCapture ts) s = .next t ∧ CaptureFrame s t ∧
      SameMemory s t ∧
      (2 * s.params.rxPreambleMin ≤ s.rx.h.toNat → t.rx = { s.rx with st := .start2, lastTs := ts }) ∧
      (s.rx.h.toNat < 2 * s.params.rxPreambleMin → t.rx = { s.rx with h := 0, lastTs := ts }))

/-- R204: in Start2 a ZERO half opens a new packet with an empty RXB, and a ONE half is a framing error. -/
def Obligations.StartBitSecondHalf : Prop :=
  ∀ (s : State) (ts : Word), Inv s → ts.toNat < 2 ^ s.params.capBits → s.rx.st = .start2 →
    (classify s.params (interval s ts) = .zero → ∃ t, exec (.rxCapture ts) s = .next t ∧ CaptureFrame s t ∧
      t.rx = { s.rx with st := .data, first := .none, bitcnt := 0, acc := 0, n := 0, lastTs := ts } ∧
      (∀ i < packetRegion, t.mem.read (rxbBase + i) = 0) ∧
      SameMemoryOutside (InRegion rxbBase packetRegion) s t) ∧
    (classify s.params (interval s ts) = .one → ∃ t, exec (.rxCapture ts) s = .next t ∧ CaptureFrame s t ∧
      BackToHunt s t ts)

/-- R205: in Data, two halves of one class are a bit, shifted in most significant first; the eighth bit stores the
byte at `RXB[n]`, or, with RX_CAPACITY bytes stored, is a framing error; halves that disagree are a framing error; a
ZERO pair after eight bits is the separator. -/
def Obligations.DataHalvesMakeBytes : Prop :=
  ∀ (s : State) (ts : Word) (one : Bool), Inv s → ts.toNat < 2 ^ s.params.capBits → s.rx.st = .data →
    classify s.params (interval s ts) = classOfBit one →
    ¬ (s.rx.first = .none ∧ s.rx.bitcnt = 8 ∧ one = true) →
    ∃ t, exec (.rxCapture ts) s = .next t ∧ CaptureFrame s t ∧
      (s.rx.first = .none →
        t.rx = { s.rx with first := firstOf one, lastTs := ts } ∧ SameMemory s t) ∧
      (s.rx.first ≠ .none → s.rx.first ≠ firstOf one → BackToHunt s t ts) ∧
      (s.rx.first = firstOf one → s.rx.bitcnt = 8 →
        t.rx = { s.rx with first := .none, bitcnt := 0, acc := 0, lastTs := ts } ∧ SameMemory s t) ∧
      (s.rx.first = firstOf one → s.rx.bitcnt.toNat < 7 →
        t.rx = { s.rx with first := .none, bitcnt := t.rx.bitcnt, acc := t.rx.acc, lastTs := ts } ∧
        t.rx.bitcnt.toNat = s.rx.bitcnt.toNat + 1 ∧
        t.rx.acc.toNat = 2 * (s.rx.acc.toNat % 128) + one.toNat ∧ SameMemory s t) ∧
      (s.rx.first = firstOf one → s.rx.bitcnt = 7 → s.rx.n.toNat < s.params.rxCapacity →
        t.rx = { s.rx with first := .none, bitcnt := 8, acc := t.rx.acc, n := t.rx.n, lastTs := ts } ∧
        t.rx.n.toNat = s.rx.n.toNat + 1 ∧ t.rx.acc.toNat = 2 * (s.rx.acc.toNat % 128) + one.toNat ∧
        t.mem.read (rxStoreAddr s) = t.rx.acc ∧ SameMemoryOutside (fun a => a = rxStoreAddr s) s t) ∧
      (s.rx.first = firstOf one → s.rx.bitcnt = 7 → s.rx.n.toNat = s.params.rxCapacity → BackToHunt s t ts)

/-- R206, R64: the first half of the end bit ends the packet. With at least two bytes, the last of them the XOR of the
ones before it, it is accepted: the bytes go to the ready slot, over any untaken packet, and with `bidi_en` the one-shot
is armed with the end of the end bit as reference. Otherwise the ready slot is kept. Either way the receiver is back in
Hunt, and it is no fault. -/
def Obligations.PacketEndAcceptsValidPackets : Prop :=
  ∀ (s : State) (ts : Word), Inv s → ts.toNat < 2 ^ s.params.capBits → s.rx.st = .data → s.rx.first = .none →
    s.rx.bitcnt = 8 → classify s.params (interval s ts) = .one →
    ∃ t, exec (.rxCapture ts) s = .next t ∧ CaptureFrame s t ∧
      t.rx.st = .hunt ∧ t.rx.h = 0 ∧ t.rx.first = .none ∧ t.rx.bitcnt = 0 ∧ t.rx.acc = 0 ∧ t.rx.n = 0 ∧
      t.rx.bidiEn = s.rx.bidiEn ∧ (∀ i < packetRegion, t.mem.read (rxbBase + i) = 0) ∧
      (2 ≤ s.rx.n.toNat ∧ ValidChecksum (s.mem.bytes rxbBase s.rx.n.toNat) →
        t.rx.ready = true ∧ t.rx.readyLen = s.rx.n ∧
        (∀ i < packetRegion, t.mem.read (rxrBase + i) = s.mem.read (rxbBase + i)) ∧
        (s.rx.bidiEn = true → t.rx.os = .armedCh1 ∧ t.rx.win = .none ∧
          t.rx.osRef.toNat = (ts.toNat + interval s ts) % 2 ^ s.params.capBits) ∧
        (s.rx.bidiEn = false → t.rx.os = s.rx.os ∧ t.rx.win = s.rx.win ∧ t.rx.osRef = s.rx.osRef)) ∧
      (¬ (2 ≤ s.rx.n.toNat ∧ ValidChecksum (s.mem.bytes rxbBase s.rx.n.toNat)) → BackToHunt s t ts)

/-- R208, R102, R71: RX_TAKE returns the ready packet's length and bytes, packed, and clears `ready`; with nothing
ready, and so when repeated, it returns one zero word. -/
def Obligations.RxTakeReturnsPacket : Prop :=
  ∀ s : State, Inv s → ∃ t, exec .rxTake s = .next t ∧
    t.rx = { s.rx with ready := false } ∧ t.out.kind = .done ∧ t.out.reload = none ∧
    (s.rx.ready = false → t.out.resp = [0]) ∧
    (s.rx.ready = true → ∃ w0 ws, t.out.resp = w0 :: ws ∧ w0.toNat = s.rx.readyLen.toNat * 2 ^ 8 + 1 ∧
      ws.length = (s.rx.readyLen.toNat + 3) / 4 ∧
      (unpackBytes ws).take s.rx.readyLen.toNat = s.mem.bytes rxrBase s.rx.readyLen.toNat ∧
      ∀ b ∈ (unpackBytes ws).drop s.rx.readyLen.toNat, b = 0) ∧
    SameMemory s t ∧ t.params = s.params ∧ t.tx = s.tx ∧ t.ovr = s.ovr ∧ t.bidi = s.bidi ∧ t.fault = s.fault ∧
    t.ports = s.ports ∧
    ∃ u, exec .rxTake t = .next u ∧ u.out.resp = [0]

/-- R209, R212: each RX_BIDI_FIRE opens the next window, and the second disarms the one-shot; in Idle there is no
step (R8): nothing changes; that this is a next state is the model's choice (log 2). -/
def Obligations.OneShotOpensWindows : Prop :=
  ∀ s : State,
    (s.rx.os = .armedCh1 ∨ s.rx.os = .armedCh2 → ∃ t, exec .rxBidiFire s = .next t ∧
      t.rx = { s.rx with win := t.rx.win, os := t.rx.os } ∧
      (s.rx.os = .armedCh1 → t.rx.win = .ch1 ∧ t.rx.os = .armedCh2) ∧
      (s.rx.os = .armedCh2 → t.rx.win = .ch2 ∧ t.rx.os = .idle) ∧ SameMemory s t ∧ t.params = s.params ∧
      t.tx = s.tx ∧ t.ovr = s.ovr ∧ t.bidi = s.bidi ∧ t.fault = s.fault ∧ t.ports = s.ports ∧ Quiet t) ∧
    (s.rx.os = .idle → ∃ t, exec .rxBidiFire s = .next t ∧ SameGroups s t ∧ t.fault = s.fault ∧
      SameMemory s t ∧ t.out = { kind := .noStep, resp := [], reload := none })

/-- R213: from Hunt with `h = 0`, the receiver enters Data only after at least `2 * RX_PREAMBLE_MIN` consecutive ONE
halves followed by two ZERO halves, whatever captures it is given. -/
def Obligations.LockNeedsWholePreamble : Prop :=
  ∀ (s t : State) (tss : List Word), Inv s → s.rx.st = .hunt → s.rx.h = 0 → s.rx.tsValid = true →
    (∀ ts ∈ tss, ts.toNat < 2 ^ s.params.capBits) →
    (∀ k u, k < tss.length → execAll ((tss.take k).map .rxCapture) s = .next u → u.rx.st ≠ .data) →
    execAll (tss.map .rxCapture) s = .next t → t.rx.st = .data →
    ∃ pre, classesFrom s.params s.rx.lastTs tss =
      pre ++ List.replicate (2 * s.params.rxPreambleMin) .one ++ [.zero, .zero]

/-- R214: round trip. The intervals of the frame of a packet with a valid checksum (R150, R64), each in the band of its
slot's bit, fed to a receiver in Hunt with `h = 0`, make it accept the packet at the end of the first half of the
end bit; RX_TAKE then returns the packet's bytes. -/
def Obligations.FrameRoundTrip : Prop :=
  ∀ (s : State) (bytes : List Byte) (np : Nat) (ds : List Nat),
    Inv s → s.rx.st = .hunt → s.rx.h = 0 → s.rx.tsValid = true →
    2 ≤ bytes.length → bytes.length ≤ s.params.rxCapacity → ValidChecksum bytes →
    s.params.rxPreambleMin ≤ np → np ≤ npMax →
    ds.length + 1 = (frameSlots np bytes.length false).length →
    (∀ (k d : Nat) (c : Cursor), ds[k]? = some d → (frameSlots np bytes.length false)[k]? = some c →
      d < 2 ^ s.params.capBits ∧ classify s.params d = classOfBit (slotBit bytes c)) →
    ∃ t u ws, execAll ((timestampsFrom s.params s.rx.lastTs ds).map .rxCapture) s = .next t ∧
      t.rx.ready = true ∧ t.rx.readyLen.toNat = bytes.length ∧ t.mem.bytes rxrBase bytes.length = bytes ∧
      exec .rxTake t = .next u ∧ u.out.resp = BitVec.ofNat 32 (bytes.length * 2 ^ 8 + 1) :: ws ∧
      (unpackBytes ws).take bytes.length = bytes

/-! ### Status reads (45_status.md, 10_state.md R39-R59) -/

/-- R320, R321, R39, R60: READ_REG of an assigned number and READ_BUF of a mapped address return one word and have
no side effect; of any other they fault FIELD_INVALID. -/
def Obligations.StatusReadsHaveNoSideEffect : Prop :=
  ∀ (s : State) (n : Byte),
    (AssignedRegister n.toNat → ∃ t w, exec (.readReg n) s = .next t ∧ reg s n = some w ∧
      SameGroups s t ∧ t.fault = s.fault ∧ SameMemory s t ∧
      t.out = { kind := .done, resp := [w], reload := none }) ∧
    (¬ AssignedRegister n.toNat → ∃ t, exec (.readReg n) s = .next t ∧ FaultedOnly .fieldInvalid s t) ∧
    (n.toNat ≤ 0x8F → ∃ t w, exec (.readBuf n) s = .next t ∧ w.toNat = (s.mem.read n.toNat).toNat ∧
      SameGroups s t ∧ t.fault = s.fault ∧ SameMemory s t ∧
      t.out = { kind := .done, resp := [w], reload := none }) ∧
    (0x8F < n.toNat → ∃ t, exec (.readBuf n) s = .next t ∧ FaultedOnly .fieldInvalid s t)

/-- R40-R47: what each transmit register reads: the fields of the packed ones, each at the bits its rule gives, and no
other bit set; the bit lengths in ticks; the active and the preloaded reload. R21, R24, R29: the codes of the run state,
the phase and RC_CH. -/
def Obligations.TransmitRegisterLayout : Prop :=
  (RunState.uninit.code = 0 ∧ RunState.stopped.code = 1 ∧ RunState.running.code = 2 ∧ RunState.halting.code = 3) ∧
  (Phase.preamble.code = 0 ∧ Phase.data.code = 1 ∧ Phase.bidiStart.code = 2 ∧ Phase.bidiCh1.code = 3 ∧
    Phase.bidiCh2.code = 4 ∧ Phase.bidiEnd.code = 5) ∧
  (Channel.none.code = 0 ∧ Channel.ch1.code = 1 ∧ Channel.ch2.code = 2) ∧
  ∀ s : State, ∃ ctrl us cur out : Word,
    reg s 0x00 = some ctrl ∧ reg s 0x01 = some us ∧ reg s 0x04 = some cur ∧ reg s 0x07 = some out ∧
    ctrl.toNat = s.tx.run.code.toNat + s.tx.stopReq.toNat * 2 ^ 2 + s.tx.cfg.bidi.toNat * 2 ^ 3 +
      s.tx.cfg.invert.toNat * 2 ^ 4 + s.tx.cfg.trig.toNat * 2 ^ 5 + s.tx.mboxFull.toNat * 2 ^ 6 +
      s.tx.cfg.np.toNat * 2 ^ 8 + s.tx.mboxLen.toNat * 2 ^ 16 ∧
    us.toNat = s.tx.cfg.bit1Us.toNat + s.tx.cfg.bit0Us.toNat * 2 ^ 16 ∧
    reg s 0x02 = some s.tx.cfg.bit1Ticks ∧ reg s 0x03 = some s.tx.cfg.bit0Ticks ∧
    cur.toNat = s.tx.cursor.phase.code.toNat + s.tx.cursor.half.toNat * 2 ^ 3 + s.tx.pol.toNat * 2 ^ 4 +
      s.tx.cursor.bitIdx.toNat * 2 ^ 8 + s.tx.cursor.byteIdx.toNat * 2 ^ 16 + s.tx.actLen.toNat * 2 ^ 24 ∧
    reg s 0x05 = some s.tx.arrActive ∧ reg s 0x06 = some s.tx.arrPreload ∧
    out.toNat = s.tx.pins.trackP.toNat + s.tx.pins.trackN.toNat * 2 + s.tx.pins.bidiEn.toNat * 2 ^ 2 +
      s.tx.pins.brakeEn.toNat * 2 ^ 3 + s.tx.pins.dacEn.toNat * 2 ^ 4 + s.tx.pins.trigger.toNat * 2 ^ 5 +
      s.tx.pins.rcCh.code.toNat * 2 ^ 6

/-- R53, R55-R59: the fields of the packed return-channel, receive and fault registers, and the timestamps of the last
edge and of the one-shot's reference. R34, R37: the codes of the framing state, the first half, the one-shot and the
window. -/
def Obligations.ReceiveRegisterLayout : Prop :=
  (RxState.hunt.code = 0 ∧ RxState.start2.code = 1 ∧ RxState.data.code = 2) ∧
  (FirstHalf.none.code = 0 ∧ FirstHalf.one.code = 1 ∧ FirstHalf.zero.code = 2) ∧
  (OneShot.idle.code = 0 ∧ OneShot.armedCh1.code = 1 ∧ OneShot.armedCh2.code = 2) ∧
  (Channel.none.code = 0 ∧ Channel.ch1.code = 1 ∧ Channel.ch2.code = 2) ∧
  ∀ s : State, ∃ bidi ctrl acc fault : Word,
    reg s 0x0D = some bidi ∧ reg s 0x10 = some ctrl ∧ reg s 0x11 = some acc ∧ reg s 0x1F = some fault ∧
    bidi.toNat = s.bidi.n1.toNat + s.bidi.n2.toNat * 2 ^ 4 + s.bidi.ready.toNat * 2 ^ 8 +
      s.bidi.sn1.toNat * 2 ^ 16 + s.bidi.sn2.toNat * 2 ^ 20 ∧
    ctrl.toNat = s.rx.st.code.toNat + s.rx.first.code.toNat * 2 ^ 2 + s.rx.tsValid.toNat * 2 ^ 4 +
      s.rx.ready.toNat * 2 ^ 5 + s.rx.bidiEn.toNat * 2 ^ 6 + s.rx.os.code.toNat * 2 ^ 7 +
      s.rx.win.code.toNat * 2 ^ 9 + s.rx.h.toNat * 2 ^ 16 + s.rx.bitcnt.toNat * 2 ^ 24 ∧
    acc.toNat = s.rx.acc.toNat + s.rx.n.toNat * 2 ^ 8 + s.rx.readyLen.toNat * 2 ^ 16 ∧
    reg s 0x12 = some s.rx.lastTs ∧ reg s 0x13 = some s.rx.osRef ∧ fault.toNat = s.fault.toNat

/-! ### Rules of the whole block (60_exceptions.md, 20_memory.md) -/

/-- R330, R331: the first fault since reset is kept: a step that faults with code `c` writes `c` to FAULT if it is 0; no
other step writes FAULT, and a FAULT that is not 0 never changes. The codes are the numbers of R331. -/
def Obligations.FirstFaultIsKept : Prop :=
  (FaultCode.illegalOpcode.code = 1 ∧ FaultCode.fieldInvalid.code = 2 ∧ FaultCode.notInitialized.code = 3 ∧
    FaultCode.busy.code = 4 ∧ FaultCode.configInvalid.code = 5 ∧ FaultCode.packetLength.code = 6 ∧
    FaultCode.reloadRange.code = 7) ∧
  ∀ s t : State, step s = .next t →
    (s.fault ≠ 0 → t.fault = s.fault) ∧
    (s.fault = 0 → ∀ c, t.out.kind = .faulted c → t.fault = c.code) ∧
    ((∀ c, t.out.kind ≠ .faulted c) → t.fault = s.fault)

/-- R330: "The block keeps accepting and performing commands and events after a fault": what an operation does to the
rest of the block, and what it answers, does not depend on FAULT; only READ_REG FAULT answers FAULT itself. -/
def Obligations.FaultDoesNotStopBlock : Prop :=
  ∀ (i : Instr) (s t : State) (f : Byte), exec i s = .next t →
    ∃ u, exec i { s with fault := f } = .next u ∧ u.params = t.params ∧ u.tx = t.tx ∧ u.ovr = t.ovr ∧
      u.bidi = t.bidi ∧ u.rx = t.rx ∧ u.mem = t.mem ∧ u.ports = t.ports ∧ u.out.kind = t.out.kind ∧
      u.out.reload = t.out.reload ∧ (i ≠ .readReg 0x1F → u.out.resp = t.out.resp) ∧
      (i = .readReg 0x1F → u.out.resp = [f.zeroExtend 32])

/-- R340: a faulting step other than RELOAD_RANGE leaves the state unchanged except FAULT, returns no response words,
changes no pin, and consumes the transaction's words: the header of an illegal opcode, else the whole transaction. -/
def Obligations.FaultingStepIsPrecise : Prop :=
  (∀ (i : Instr) (s t : State) (c : FaultCode), exec i s = .next t → t.out.kind = .faulted c →
    c ≠ .reloadRange → FaultedOnly c s t) ∧
  ∀ (s t : State) (c : FaultCode), step s = .next t → t.out.kind = .faulted c → c ≠ .reloadRange →
    FaultedOnly c { s with ports := t.ports } t ∧
    ∃ port n, s.ports.turns.head? = some port ∧ t.ports = (s.ports.consume port n).passTurn ∧
      ((fetch s port = .illegalOpcode ∧ n = 1) ∨ fetch s port = .fieldInvalid n ∨ ∃ i, fetch s port = .cmd i n)

/-- R344: `IRQ_RX = st.rx.ready`, `IRQ_BIDI = st.bidi.ready` and `IRQ_FAULT = (st.fault != 0)`. `IRQ_RX` is set by the
RX_CAPTURE that accepts a packet, and cleared by RX_TAKE and RX_INIT; `IRQ_BIDI` is set by the TX_UPDATE at BiDiEnd, and
cleared by BIDI_TAKE and by an INIT_TX that is done; `IRQ_FAULT` is set by a fault. Nothing else sets or clears them,
and no operation clears `IRQ_FAULT`. -/
def Obligations.IndicationsChangeOnlyByTheirOperations : Prop :=
  (∀ s : State, irqRx s = s.rx.ready ∧ irqBidi s = s.bidi.ready ∧ (irqFault s = true ↔ s.fault ≠ 0)) ∧
  ∀ (i : Instr) (s t : State), exec i s = .next t →
    (∀ ts, i = .rxCapture ts → AcceptsPacket s ts → irqRx t = true) ∧
    (i.op = .rxTake ∨ i.op = .rxInit → irqRx t = false) ∧
    (i.op = .txUpdate → s.tx.run = .running → s.tx.cursor.phase = .bidiEnd → t.out.kind = .done →
      irqBidi t = true) ∧
    (i.op = .bidiTake ∨ (i.op = .initTx ∧ t.out.kind = .done) → irqBidi t = false) ∧
    (∀ c, t.out.kind = .faulted c → irqFault t = true) ∧
    (irqRx s = false → irqRx t = true → ∃ ts, i = .rxCapture ts ∧ AcceptsPacket s ts) ∧
    (irqRx s = true → irqRx t = false → i.op = .rxTake ∨ i.op = .rxInit) ∧
    (irqBidi s = false → irqBidi t = true → i.op = .txUpdate ∧ s.tx.run = .running ∧
      s.tx.cursor.phase = .bidiEnd ∧ t.out.kind = .done) ∧
    (irqBidi s = true → irqBidi t = false → i.op = .bidiTake ∨ (i.op = .initTx ∧ t.out.kind = .done)) ∧
    (irqFault s = true → irqFault t = true) ∧
    (irqFault s = false → irqFault t = true → ∃ c, t.out.kind = .faulted c)

/-- R349: "The transmit side and the receive side share no state except the FAULT register": in every state of the
invariant, the transmit-side operations leave the receive state and its buffers, and the receive-side ones leave the
transmit state, the override, the return channel and their buffers. -/
def Obligations.SidesShareOnlyFault : Prop :=
  ∀ (i : Instr) (s t : State), Inv s → exec i s = .next t →
    (i.op = .initTx ∨ i.op = .packet ∨ i.op = .start ∨ i.op = .stop ∨ i.op = .setOvrMask ∨ i.op = .setOvrDelta ∨
      i.op = .setBidiThreshold ∨ i.op = .bidiTake ∨ i.op = .txUpdate ∨ i.op = .bidiByte →
      t.rx = s.rx ∧ ∀ a, RxAddress a → t.mem.read a = s.mem.read a) ∧
    (i.op = .rxInit ∨ i.op = .rxTake ∨ i.op = .rxCapture ∨ i.op = .rxBidiFire →
      t.tx = s.tx ∧ t.ovr = s.ovr ∧ t.bidi = s.bidi ∧ ∀ a, TxAddress a → t.mem.read a = s.mem.read a)

/-- R21-R37, R62, R64, R164: every step keeps the invariant of the block. -/
def Obligations.StepKeepsInvariant : Prop :=
  ∀ s t : State, Inv s → step s = .next t → Inv t

/-- R370: the state after reset meets the invariant, for every valid parameter set. -/
def Obligations.ResetMeetsInvariant : Prop :=
  ∀ p : Params, p.valid = true → Inv (State.resetWith p)

/-- R330, R8: from every state of the invariant, and so in every state that a run reaches, a step answers a next state:
the block never stops, after a fault either, and the model's own stops (log 10) are not reached. That "no step" (log 2),
a turn with no complete transaction (log 3) and a fault of the block (log 7) are next states is the model's choice. -/
def Obligations.ReachableStatesNeverStop : Prop :=
  (∀ s : State, Inv s → ∃ t, step s = .next t) ∧ ∀ s : State, Reachable s → ∃ t, step s = .next t
end

