-- ==== Sys2Proof/Laws/Bidi.lean ====
section
/-! SUPPORT. The channel-2 walk of 43_bidi.md R260 does not depend on how many passes it is given, once they are as many
as the bytes, for every table of datagram lengths that R5 allows; what its data test and its numbers are. -/

namespace Sys2Proof.Machine

/-- What `lookup` finds in a list of pairs is in the list. -/
theorem mem_of_lookup {l : Nat} {id : BitVec 4} :
    ∀ table : List (BitVec 4 × Nat), table.lookup id = some l → (id, l) ∈ table
  | [], h => by simp at h
  | (x, y) :: rest, h => by
    rw [List.lookup_cons] at h
    split at h
    · rename_i hx
      simp only [beq_iff_eq] at hx
      simp only [Option.some.injEq] at h
      simp [hx, h]
    · exact List.mem_cons_of_mem _ (mem_of_lookup rest h)

/-- R5: the length of a datagram is in 2..6. -/
theorem dgSymsOf_range {p : Params} (hp : p.valid = true) {id : BitVec 4} {l : Nat} (h : dgSymsOf p id = some l) :
    2 ≤ l ∧ l ≤ 6 := by
  have hall : ∀ e ∈ p.dgSyms, 2 ≤ e.2 ∧ e.2 ≤ 6 := by
    simp only [Params.valid, decide_eq_true_eq] at hp
    obtain ⟨-, -, -, -, -, -, -, -, -, -, -, -, -, -, -, -, -, -, -, -, -, -, -, -, -, -, -, hp⟩ := hp
    exact hp
  exact hall _ (mem_of_lookup _ h)

/-- R260: "The walk always ends": as many passes as bytes are enough, and more change nothing. -/
theorem dissectWalk_fuel {p : Params} (hp : p.valid = true) :
    ∀ (f g : Nat) (bs : List Byte), bs.length ≤ f → bs.length ≤ g → dissectWalk p f bs = dissectWalk p g bs
  | 0, g, bs, hf, _ => by
    obtain rfl : bs = [] := by simpa using hf
    cases g <;> rfl
  | f + 1, g, [], _, _ => by cases g <;> rfl
  | f + 1, 0, b :: bs, _, hg => by simp at hg
  | f + 1, g + 1, b :: bs, hf, hg => by
    simp only [List.length_cons, Nat.add_le_add_iff_right] at hf hg
    unfold dissectWalk
    simp only [dissectWalk_fuel hp f g bs hf hg]
    split <;> try rfl
    split <;> try rfl
    rename_i l hl
    have hl2 := (dgSymsOf_range hp hl).1
    simp only [dissectWalk_fuel hp f g ((b :: bs).drop l) (by simp; omega) (by simp; omega)]

/-- R260: a list of bytes decodes to data throughout exactly when each byte does. -/
theorem allData_eq_some {p : Params} (bs : List Byte) (vs : List (BitVec 6)) :
    allData p bs = some vs ↔ bs.map (rcDecode p) = vs.map .data := by
  induction bs generalizing vs with
  | nil => cases vs <;> simp [allData]
  | cons b bs ih =>
    have hd : ∀ w, rcDecode p b = .data w → (allData p (b :: bs) = some vs ↔
        (b :: bs).map (rcDecode p) = vs.map .data) := by
      intro w hb
      cases vs with
      | nil => cases hr : allData p bs <;> simp [allData, hb, hr]
      | cons v ws =>
        simp only [List.map_cons, List.cons.injEq, hb, Symbol.data.injEq, ← ih ws]
        cases hr : allData p bs <;> simp [allData, hb, hr]
    cases hb : rcDecode p b with
    | data w => exact hd w hb
    | ack | nack | busy | invalid => cases vs <;> simp [allData, hb]

/-- R258, R260: the first symbol of a list stands in the highest six bits of its number. -/
theorem joinSymbols_cons (v : BitVec 6) (vs : List (BitVec 6)) :
    joinSymbols (v :: vs) = v.toNat * 64 ^ vs.length + joinSymbols vs := by
  have key : ∀ (us : List (BitVec 6)) (a : Nat),
      us.foldl (fun w v => w * 64 + v.toNat) a = a * 64 ^ us.length + us.foldl (fun w v => w * 64 + v.toNat) 0 := by
    intro us
    induction us with
    | nil => simp
    | cons u us ih =>
      intro a
      simp only [List.foldl_cons, List.length_cons]
      rw [ih (a * 64 + u.toNat), ih (0 * 64 + u.toNat)]
      ring
  simpa [joinSymbols] using key vs v.toNat

/-- R258, R260: the number of a list of symbols has six bits for each. -/
theorem joinSymbols_lt : ∀ vs : List (BitVec 6), joinSymbols vs < 64 ^ vs.length
  | [] => by simp [joinSymbols]
  | v :: vs => by
    rw [joinSymbols_cons, List.length_cons, Nat.pow_succ]
    have h1 := joinSymbols_lt vs
    have h2 : v.toNat * 64 ^ vs.length ≤ 63 * 64 ^ vs.length := Nat.mul_le_mul_right _ (by have := v.isLt; omega)
    omega

end Sys2Proof.Machine
end

