-- ==== Sys2Proof/Laws/Checksum.lean ====
section
/-! SUPPORT. The two forms of the checksum of 20_memory.md R64. -/

namespace Sys2Proof.Machine

/-- R64: the last byte is the XOR of the ones before it, "which is the same as" the XOR of all of them being 0. -/
theorem validChecksum_iff {bs : List Byte} (h : bs ≠ []) : ValidChecksum bs ↔ xorBytes bs = 0 := by
  obtain ⟨init, last, rfl⟩ := (List.eq_nil_or_concat' bs).resolve_left h
  simp only [ValidChecksum, xorBytes, List.getLast?_append, List.getLast?_singleton, List.dropLast_concat,
    Option.some_or, Option.some.injEq, List.foldl_append, List.foldl_cons, List.foldl_nil]
  generalize init.foldl (fun x b => x ^^^ b) 0 = x
  constructor
  · rintro rfl
    exact BitVec.xor_self
  · intro hx
    exact (BitVec.xor_eq_zero_iff.1 hx).symm

end Sys2Proof.Machine
end

