-- ==== Sys2Proof/Laws/Decode.lean ====
section
/-! SUPPORT. The fields of a header word, the packing of bytes into words and back, and that a header's
opcode selects its row. -/

namespace Sys2Proof

@[simp] theorem opcField_headerWord (opc a : Byte) (b : BitVec 16) : opcField (headerWord opc a b) = opc := by
  ext i hi
  simp only [opcField, headerWord, BitVec.getElem_extractLsb', BitVec.getLsbD_append]
  simp [hi]

@[simp] theorem aField_headerWord (opc a : Byte) (b : BitVec 16) : aField (headerWord opc a b) = a := by
  ext i hi
  simp only [aField, headerWord, BitVec.getElem_extractLsb', BitVec.getLsbD_append]
  simp [hi]

@[simp] theorem bField_headerWord (opc a : Byte) (b : BitVec 16) : bField (headerWord opc a b) = b := by
  ext i hi
  simp only [bField, headerWord, BitVec.getElem_extractLsb', BitVec.getLsbD_append]
  have h1 : ¬ (16 + i < 8) := by omega
  have h2 : ¬ (16 + i - 8 < 8) := by omega
  have h3 : 16 + i - 8 - 8 = i := by omega
  simp [h1, h2, h3, hi]

/-- A header bit is a bit of one of its three fields. -/
theorem getLsbD_headerWord (opc a : Byte) (b : BitVec 16) (i : Nat) :
    (headerWord opc a b).getLsbD i =
      if i < 8 then opc.getLsbD i else if i < 16 then a.getLsbD (i - 8) else b.getLsbD (i - 16) := by
  simp only [headerWord, BitVec.getLsbD_append]
  by_cases h1 : i < 8
  · simp [h1]
  · by_cases h2 : i < 16
    · have : i - 8 < 8 := by omega
      simp [h1, h2, this]
    · have h3 : ¬ i - 8 < 8 := by omega
      have h4 : i - 8 - 8 = i - 16 := by omega
      simp [h1, h2, h3, h4]

@[simp] theorem bytesOfWord_wordOfBytes (b0 b1 b2 b3 : Byte) :
    bytesOfWord (wordOfBytes b0 b1 b2 b3) = [b0, b1, b2, b3] := by
  simp only [bytesOfWord, wordOfBytes, List.cons.injEq, and_true]
  refine ⟨?_, ?_, ?_, ?_⟩ <;> ext i hi <;>
    simp only [BitVec.getElem_extractLsb', BitVec.getLsbD_append]
  · simp [hi]
  · simp [hi]
  · have h1 : ¬ 16 + i < 8 := by omega
    have h2 : ¬ 16 + i - 8 < 8 := by omega
    have h3 : 16 + i - 8 - 8 = i := by omega
    simp [h1, h2, h3, hi]
  · have h1 : ¬ 24 + i < 8 := by omega
    have h2 : ¬ 24 + i - 8 < 8 := by omega
    have h3 : ¬ 24 + i - 8 - 8 < 8 := by omega
    have h4 : 24 + i - 8 - 8 - 8 = i := by omega
    simp [h1, h2, h3, h4, hi]

@[simp] theorem wordOfBytes_bytesOfWord (w : Word) :
    wordOfBytes (w.extractLsb' 0 8) (w.extractLsb' 8 8) (w.extractLsb' 16 8) (w.extractLsb' 24 8) = w := by
  apply BitVec.eq_of_getLsbD_eq
  intro i hi
  simp only [wordOfBytes, BitVec.getLsbD_append, BitVec.getLsbD_extractLsb']
  by_cases h1 : i < 8
  · simp [h1]
  · by_cases h2 : i < 16
    · have h3 : i - 8 < 8 := by omega
      have h4 : 8 + (i - 8) = i := by omega
      simp [h1, h3, h4]
    · by_cases h3 : i < 24
      · have h4 : ¬ i - 8 < 8 := by omega
        have h5 : i - 8 - 8 < 8 := by omega
        have h6 : 16 + (i - 8 - 8) = i := by omega
        simp [h1, h4, h5, h6]
      · have h4 : ¬ i - 8 < 8 := by omega
        have h5 : ¬ i - 8 - 8 < 8 := by omega
        have h6 : i - 8 - 8 - 8 < 8 := by omega
        have h7 : 24 + (i - 8 - 8 - 8) = i := by omega
        simp [h1, h4, h5, h6, h7]

@[simp] theorem packBytes_length (bs : List Byte) : (packBytes bs).length = (bs.length + 3) / 4 := by
  induction bs using packBytes.induct with
  | case1 => simp [packBytes]
  | case2 => simp [packBytes]
  | case3 => simp [packBytes]
  | case4 => simp [packBytes]
  | case5 b0 b1 b2 b3 rest ih => simp only [packBytes, List.length_cons, ih]; omega

@[simp] theorem unpackBytes_nil : unpackBytes [] = [] := rfl

@[simp] theorem unpackBytes_cons (w : Word) (ws : List Word) :
    unpackBytes (w :: ws) = bytesOfWord w ++ unpackBytes ws := by simp [unpackBytes]

@[simp] theorem unpackBytes_length (ws : List Word) : (unpackBytes ws).length = 4 * ws.length := by
  induction ws with
  | nil => rfl
  | cons w ws ih => simp only [unpackBytes_cons, List.length_append, ih, List.length_cons, bytesOfWord]; simp; omega

/-- R68, R95: unpacking packed bytes gives the bytes, then the padding zeros. -/
theorem unpackBytes_packBytes (bs : List Byte) :
    unpackBytes (packBytes bs) = bs ++ List.replicate (4 * ((bs.length + 3) / 4) - bs.length) 0#8 := by
  induction bs using packBytes.induct with
  | case1 => rfl
  | case2 => simp [packBytes, List.replicate]
  | case3 => simp [packBytes, List.replicate]
  | case4 => simp [packBytes]
  | case5 b0 b1 b2 b3 rest ih =>
    have : 4 * ((rest.length + 1 + 1 + 1 + 1 + 3) / 4) - (rest.length + 1 + 1 + 1 + 1) =
        4 * ((rest.length + 3) / 4) - rest.length := by omega
    simp only [packBytes, unpackBytes_cons, bytesOfWord_wordOfBytes, ih, List.length_cons, this,
      List.cons_append, List.nil_append]

/-- R92: a header whose opcode is a row's selects that row on the row's port. -/
theorem ofHeader_headerWord (op : Op) (a : Byte) (b : BitVec 16) :
    Op.ofHeader op.port (headerWord op.code a b) = some op := by
  simp only [Op.ofHeader, opcField_headerWord]
  cases op <;> rfl

/-- R92: the row that a header selects has the header's opcode and the port. -/
theorem ofHeader_some {port : Port} {w : Word} {op : Op} (h : Op.ofHeader port w = some op) :
    op.code = opcField w ∧ op.port = port := by
  have := List.find?_some h
  simpa using this

end Sys2Proof
end

