-- ==== Sys2Proof/Laws/Memory.lean ====
section
/-! SUPPORT. The laws of the buffer space: a read after a write, the canonical form, and that two canonical
memories with the same bytes are equal. -/

namespace Sys2Proof.Machine

theorem readCells_writeCells (cs : List Host.Cell) (a b : Nat) (v : Byte)
    (h : cs.Pairwise fun c d => c.1 < d.1) :
    readCells (writeCells cs a v) b = if b = a then v else readCells cs b := by
  induction cs with
  | nil =>
    by_cases hv : v = 0#8 <;> by_cases hb : b = a
    · simp [writeCells, readCells, hv]
    · simp [writeCells, readCells, hv]
    · simp [writeCells, readCells, hv, hb]
    · have : ¬ a = b := by omega
      simp [writeCells, readCells, hv, hb, this]
  | cons c rest ih =>
    obtain ⟨hc, hr⟩ := List.pairwise_cons.mp h
    have low : ∀ x, x ≤ c.1 → readCells rest x = 0#8 := by
      clear ih h
      induction rest with
      | nil => intros; rfl
      | cons d ds ihd =>
        intro x hx
        have := hc d (by simp)
        have hne : d.1 ≠ x := by omega
        simp only [readCells, hne, if_false]
        exact ihd (fun e he => hc e (by simp [he])) (List.pairwise_cons.mp hr).2 x hx
    simp only [writeCells]
    split
    · rename_i hlt
      simp only [readCells, ih hr]
      split <;> split <;> simp_all
    · split
      · rename_i heq
        by_cases hv : v = 0#8
        · simp only [hv, if_true]
          by_cases hb : b = a
          · subst hb; simpa using low _ (by omega)
          · have : c.1 ≠ b := by omega
            simp [readCells, hb, this]
        · by_cases hb : b = a
          · simp [hv, readCells, hb]
          · have h1 : c.1 ≠ b := by omega
            have h2 : ¬ a = b := by omega
            simp [hv, readCells, hb, h1, h2]
      · have hca : ¬ c.1 = a := by assumption
        by_cases hv : v = 0#8
        · simp only [hv, if_true]
          by_cases hb : b = a
          · subst hb; simp only [readCells, hca, if_false, if_true]; exact low b (by omega)
          · simp [hb]
        · by_cases hb : b = a
          · simp [hv, readCells, hb]
          · have h2 : ¬ a = b := by omega
            simp [hv, readCells, hb, h2]

theorem mem_writeCells (cs : List Host.Cell) (a : Nat) (v : Byte) (c : Host.Cell)
    (h : c ∈ writeCells cs a v) : c ∈ cs ∨ (c = (a, v) ∧ v ≠ 0#8) := by
  induction cs with
  | nil => by_cases hv : v = 0#8 <;> simp_all [writeCells]
  | cons d rest ih =>
    simp only [writeCells] at h
    split at h
    · rcases List.mem_cons.mp h with h | h
      · simp [h]
      · rcases ih h with h | h <;> simp [h]
    · split at h
      · by_cases hv : v = 0#8
        · simp_all
        · simp only [hv, if_false, List.mem_cons] at h
          rcases h with h | h <;> simp [h, hv]
      · by_cases hv : v = 0#8
        · simp_all
        · simp only [hv, if_false, List.mem_cons] at h
          rcases h with h | h | h <;> simp [h, hv]

theorem pairwise_writeCells (cs : List Host.Cell) (a : Nat) (v : Byte)
    (h : cs.Pairwise fun c d => c.1 < d.1) : (writeCells cs a v).Pairwise fun c d => c.1 < d.1 := by
  induction cs with
  | nil => by_cases hv : v = 0#8 <;> simp [writeCells, hv]
  | cons c rest ih =>
    obtain ⟨hc, hr⟩ := List.pairwise_cons.mp h
    simp only [writeCells]
    split
    · refine List.pairwise_cons.mpr ⟨fun d hd => ?_, ih hr⟩
      rcases mem_writeCells _ _ _ _ hd with hd | ⟨hd, -⟩
      · exact hc d hd
      · simpa [hd]
    · split
      · by_cases hv : v = 0#8
        · simpa [hv]
        · simp only [hv, if_false]
          refine List.pairwise_cons.mpr ⟨fun d hd => ?_, hr⟩
          have := hc d hd
          simp only; omega
      · by_cases hv : v = 0#8
        · simpa only [hv, if_true] using h
        · simp only [hv, if_false]
          refine List.pairwise_cons.mpr ⟨fun d hd => ?_, h⟩
          rcases List.mem_cons.mp hd with hd | hd
          · subst hd; simp only; omega
          · have := hc d hd; simp only; omega

theorem Memory.wf_pairwise {m : Memory} (h : m.wf = true) : m.cells.Pairwise fun c d => c.1 < d.1 := by
  simp only [Memory.wf, Bool.and_eq_true, decide_eq_true_eq] at h
  exact h.1

theorem Memory.wf_cell {m : Memory} (h : m.wf = true) (c : Host.Cell) (hc : c ∈ m.cells) :
    mapped c.1 = true ∧ c.2 ≠ 0#8 := by
  simp only [Memory.wf, Bool.and_eq_true, List.all_eq_true, bne_iff_ne] at h
  exact h.2 c hc

/-- Every write keeps the canonical form. -/
theorem Memory.write_wf {m : Memory} (h : m.wf = true) (a : Nat) (v : Byte) : (m.write a v).wf = true := by
  unfold Memory.write
  split
  · rename_i ha
    simp only [Memory.wf, Bool.and_eq_true, decide_eq_true_eq, List.all_eq_true, bne_iff_ne]
    refine ⟨pairwise_writeCells _ _ _ (Memory.wf_pairwise h), fun c hc => ?_⟩
    rcases mem_writeCells _ _ _ _ hc with hc | ⟨rfl, hv⟩
    · exact Memory.wf_cell h c hc
    · exact ⟨ha, hv⟩
  · exact h

/-- A read after a write. -/
theorem Memory.read_write {m : Memory} (h : m.wf = true) (a b : Nat) (v : Byte) :
    (m.write a v).read b = if b = a ∧ mapped a = true then v else m.read b := by
  unfold Memory.write
  split
  · rename_i ha
    simp only [Memory.read, readCells_writeCells _ _ _ _ (Memory.wf_pairwise h), ha, and_true]
  · rename_i ha
    simp [ha]

theorem Memory.fill_wf {m : Memory} (h : m.wf = true) (base len : Nat) (f : Nat → Byte) :
    (m.fill base len f).wf = true := by
  induction len with
  | zero => exact h
  | succ n ih => exact Memory.write_wf ih _ _

/-- A read after a fill. -/
theorem Memory.read_fill {m : Memory} (h : m.wf = true) (base len : Nat) (f : Nat → Byte) (b : Nat)
    (hm : base + len ≤ bufferTop + 1) :
    (m.fill base len f).read b = if base ≤ b ∧ b < base + len then f (b - base) else m.read b := by
  induction len with
  | zero =>
    have : ¬ (base ≤ b ∧ b < base + 0) := by omega
    simp only [Memory.fill, this, if_false]
  | succ n ih =>
    have hmap : mapped (base + n) = true := by simp [mapped]; omega
    simp only [Memory.fill, Memory.read_write (Memory.fill_wf h _ _ _), hmap, and_true, ih (by omega)]
    by_cases hb : b = base + n
    · subst hb
      simp
    · by_cases hlt : base ≤ b ∧ b < base + n
      · have : base ≤ b ∧ b < base + (n + 1) := by omega
        simp [hb, hlt, this]
      · have : ¬ (base ≤ b ∧ b < base + (n + 1)) := by omega
        simp [hb, hlt, this]

theorem Memory.clear_wf {m : Memory} (h : m.wf = true) (base len : Nat) : (m.clear base len).wf = true :=
  Memory.fill_wf h _ _ _

theorem Memory.copy_wf {m : Memory} (h : m.wf = true) (src dst len : Nat) : (m.copy src dst len).wf = true :=
  Memory.fill_wf h _ _ _

/-- A read after a clear. -/
theorem Memory.read_clear {m : Memory} (h : m.wf = true) (base len b : Nat) (hm : base + len ≤ bufferTop + 1) :
    (m.clear base len).read b = if base ≤ b ∧ b < base + len then 0#8 else m.read b :=
  Memory.read_fill h _ _ _ _ hm

/-- A read after a copy. -/
theorem Memory.read_copy {m : Memory} (h : m.wf = true) (src dst len b : Nat)
    (hm : dst + len ≤ bufferTop + 1) :
    (m.copy src dst len).read b =
      if dst ≤ b ∧ b < dst + len then m.read (src + (b - dst)) else m.read b :=
  Memory.read_fill h _ _ _ _ hm

theorem readCells_low (cs : List Host.Cell) (x : Nat) (hc : ∀ e ∈ cs, x < e.1) : readCells cs x = 0#8 := by
  induction cs with
  | nil => rfl
  | cons d ds ih =>
    have hne : d.1 ≠ x := by have := hc d (by simp); omega
    simp only [readCells, hne, if_false]
    exact ih fun e he => hc e (by simp [he])

/-- Two canonical memories whose bytes are the same are the same data. -/
theorem Memory.ext_read {m m' : Memory} (h : m.wf = true) (h' : m'.wf = true)
    (heq : ∀ a, m.read a = m'.read a) : m = m' := by
  obtain ⟨cs⟩ := m
  obtain ⟨cs'⟩ := m'
  have hp := Memory.wf_pairwise h
  have hp' := Memory.wf_pairwise h'
  have hz := fun c hc => (Memory.wf_cell h c hc).2
  have hz' := fun c hc => (Memory.wf_cell h' c hc).2
  simp only [Memory.read] at heq hp hp' hz hz'
  congr 1
  clear h h'
  induction cs generalizing cs' with
  | nil =>
    cases cs' with
    | nil => rfl
    | cons d ds =>
      have := heq d.1
      simp [readCells] at this
      exact absurd this.symm (hz' d (by simp))
  | cons c rest ih =>
    obtain ⟨hc, hr⟩ := List.pairwise_cons.mp hp
    cases cs' with
    | nil =>
      have := heq c.1
      simp [readCells] at this
      exact absurd this (hz c (by simp))
    | cons d ds =>
      obtain ⟨hd, hs⟩ := List.pairwise_cons.mp hp'
      have hcd : c.1 = d.1 := by
        rcases Nat.lt_trichotomy c.1 d.1 with hlt | he | hgt
        · have := heq c.1
          have hne : d.1 ≠ c.1 := by omega
          simp only [readCells, if_true, hne, if_false] at this
          rw [readCells_low ds c.1 (fun e he => by have := hd e he; omega)] at this
          exact absurd this (hz c (by simp))
        · exact he
        · have := heq d.1
          have hne : c.1 ≠ d.1 := by omega
          simp only [readCells, if_true, hne, if_false] at this
          rw [readCells_low rest d.1 (fun e he => by have := hc e he; omega)] at this
          exact absurd this.symm (hz' d (by simp))
      have hval : c.2 = d.2 := by
        have := heq c.1
        simpa [readCells, hcd] using this
      have hce : c = d := Prod.ext hcd hval
      subst hce
      congr 1
      refine ih ds (fun a => ?_) hr hs (fun e he => hz e (List.mem_cons_of_mem _ he)) fun e he =>
        hz' e (List.mem_cons_of_mem _ he)
      have := heq a
      by_cases ha : c.1 = a
      · subst ha
        rw [readCells_low rest _ hc, readCells_low ds _ hd]
      · simpa [readCells, ha] using this

end Sys2Proof.Machine
end

