-- ==== Sys2Proof/Laws/State.lean ====
section
/-! SUPPORT. One lemma per field and shared operation: what the field is after it. With these, no proof
unfolds a record update. -/

namespace Sys2Proof.Machine

section
variable (s : State)

/-! ### finish -/

@[simp] theorem finish_params : (finish s).params = s.params := rfl
@[simp] theorem finish_tx : (finish s).tx = s.tx := rfl
@[simp] theorem finish_ovr : (finish s).ovr = s.ovr := rfl
@[simp] theorem finish_bidi : (finish s).bidi = s.bidi := rfl
@[simp] theorem finish_rx : (finish s).rx = s.rx := rfl
@[simp] theorem finish_fault : (finish s).fault = s.fault := rfl
@[simp] theorem finish_mem : (finish s).mem = s.mem := rfl
@[simp] theorem finish_ports : (finish s).ports = s.ports := rfl
@[simp] theorem finish_out : (finish s).out = { kind := .done, resp := [], reload := none } := rfl

/-! ### respond -/

@[simp] theorem respond_params (ws : List Word) : (respond ws s).params = s.params := rfl
@[simp] theorem respond_tx (ws : List Word) : (respond ws s).tx = s.tx := rfl
@[simp] theorem respond_ovr (ws : List Word) : (respond ws s).ovr = s.ovr := rfl
@[simp] theorem respond_bidi (ws : List Word) : (respond ws s).bidi = s.bidi := rfl
@[simp] theorem respond_rx (ws : List Word) : (respond ws s).rx = s.rx := rfl
@[simp] theorem respond_fault (ws : List Word) : (respond ws s).fault = s.fault := rfl
@[simp] theorem respond_mem (ws : List Word) : (respond ws s).mem = s.mem := rfl
@[simp] theorem respond_ports (ws : List Word) : (respond ws s).ports = s.ports := rfl
@[simp] theorem respond_out (ws : List Word) : (respond ws s).out =
    { kind := .done, resp := ws, reload := none } := rfl

/-! ### giveReload -/

@[simp] theorem giveReload_params (r : Word) : (giveReload r s).params = s.params := rfl
@[simp] theorem giveReload_tx (r : Word) : (giveReload r s).tx = s.tx := rfl
@[simp] theorem giveReload_ovr (r : Word) : (giveReload r s).ovr = s.ovr := rfl
@[simp] theorem giveReload_bidi (r : Word) : (giveReload r s).bidi = s.bidi := rfl
@[simp] theorem giveReload_rx (r : Word) : (giveReload r s).rx = s.rx := rfl
@[simp] theorem giveReload_fault (r : Word) : (giveReload r s).fault = s.fault := rfl
@[simp] theorem giveReload_mem (r : Word) : (giveReload r s).mem = s.mem := rfl
@[simp] theorem giveReload_ports (r : Word) : (giveReload r s).ports = s.ports := rfl
@[simp] theorem giveReload_out (r : Word) : (giveReload r s).out =
    { kind := .done, resp := [], reload := some r } := rfl

/-! ### noStep -/

@[simp] theorem noStep_params : (noStep s).params = s.params := rfl
@[simp] theorem noStep_tx : (noStep s).tx = s.tx := rfl
@[simp] theorem noStep_ovr : (noStep s).ovr = s.ovr := rfl
@[simp] theorem noStep_bidi : (noStep s).bidi = s.bidi := rfl
@[simp] theorem noStep_rx : (noStep s).rx = s.rx := rfl
@[simp] theorem noStep_fault : (noStep s).fault = s.fault := rfl
@[simp] theorem noStep_mem : (noStep s).mem = s.mem := rfl
@[simp] theorem noStep_ports : (noStep s).ports = s.ports := rfl
@[simp] theorem noStep_out : (noStep s).out = { kind := .noStep, resp := [], reload := none } := rfl

/-! ### await -/

@[simp] theorem await_params : (await s).params = s.params := rfl
@[simp] theorem await_tx : (await s).tx = s.tx := rfl
@[simp] theorem await_ovr : (await s).ovr = s.ovr := rfl
@[simp] theorem await_bidi : (await s).bidi = s.bidi := rfl
@[simp] theorem await_rx : (await s).rx = s.rx := rfl
@[simp] theorem await_fault : (await s).fault = s.fault := rfl
@[simp] theorem await_mem : (await s).mem = s.mem := rfl
@[simp] theorem await_ports : (await s).ports = s.ports := rfl
@[simp] theorem await_out : (await s).out = { kind := .waiting, resp := [], reload := none } := rfl

/-! ### raise -/

@[simp] theorem raise_params (c : FaultCode) : (raise c s).params = s.params := rfl
@[simp] theorem raise_tx (c : FaultCode) : (raise c s).tx = s.tx := rfl
@[simp] theorem raise_ovr (c : FaultCode) : (raise c s).ovr = s.ovr := rfl
@[simp] theorem raise_bidi (c : FaultCode) : (raise c s).bidi = s.bidi := rfl
@[simp] theorem raise_rx (c : FaultCode) : (raise c s).rx = s.rx := rfl
@[simp] theorem raise_fault (c : FaultCode) : (raise c s).fault =
    if s.fault = 0 then c.code else s.fault := rfl
@[simp] theorem raise_mem (c : FaultCode) : (raise c s).mem = s.mem := rfl
@[simp] theorem raise_ports (c : FaultCode) : (raise c s).ports = s.ports := rfl
@[simp] theorem raise_out (c : FaultCode) : (raise c s).out =
    { kind := .faulted c, resp := [], reload := none } := rfl

/-! ### outputsOff -/

@[simp] theorem outputsOff_params : (outputsOff s).params = s.params := rfl
@[simp] theorem outputsOff_tx : (outputsOff s).tx = { s.tx with pins := .off } := rfl
@[simp] theorem outputsOff_ovr : (outputsOff s).ovr = s.ovr := rfl
@[simp] theorem outputsOff_bidi : (outputsOff s).bidi = s.bidi := rfl
@[simp] theorem outputsOff_rx : (outputsOff s).rx = s.rx := rfl
@[simp] theorem outputsOff_fault : (outputsOff s).fault = s.fault := rfl
@[simp] theorem outputsOff_mem : (outputsOff s).mem = s.mem := rfl
@[simp] theorem outputsOff_ports : (outputsOff s).ports = s.ports := rfl
@[simp] theorem outputsOff_out : (outputsOff s).out = s.out := rfl

/-! ### drive -/

@[simp] theorem drive_params (p : Bool) : (drive p s).params = s.params := rfl
@[simp] theorem drive_tx (p : Bool) : (drive p s).tx =
    { s.tx with pins := { s.tx.pins with trackP := Bool.xor p s.tx.cfg.invert, trackN := Bool.xor (!p) s.tx.cfg.invert } } := rfl
@[simp] theorem drive_ovr (p : Bool) : (drive p s).ovr = s.ovr := rfl
@[simp] theorem drive_bidi (p : Bool) : (drive p s).bidi = s.bidi := rfl
@[simp] theorem drive_rx (p : Bool) : (drive p s).rx = s.rx := rfl
@[simp] theorem drive_fault (p : Bool) : (drive p s).fault = s.fault := rfl
@[simp] theorem drive_mem (p : Bool) : (drive p s).mem = s.mem := rfl
@[simp] theorem drive_ports (p : Bool) : (drive p s).ports = s.ports := rfl
@[simp] theorem drive_out (p : Bool) : (drive p s).out = s.out := rfl

/-! ### consumed -/

@[simp] theorem consumed_params (port : Port) (n : Nat) : (consumed port n s).params = s.params := rfl
@[simp] theorem consumed_tx (port : Port) (n : Nat) : (consumed port n s).tx = s.tx := rfl
@[simp] theorem consumed_ovr (port : Port) (n : Nat) : (consumed port n s).ovr = s.ovr := rfl
@[simp] theorem consumed_bidi (port : Port) (n : Nat) : (consumed port n s).bidi = s.bidi := rfl
@[simp] theorem consumed_rx (port : Port) (n : Nat) : (consumed port n s).rx = s.rx := rfl
@[simp] theorem consumed_fault (port : Port) (n : Nat) : (consumed port n s).fault = s.fault := rfl
@[simp] theorem consumed_mem (port : Port) (n : Nat) : (consumed port n s).mem = s.mem := rfl
@[simp] theorem consumed_ports (port : Port) (n : Nat) : (consumed port n s).ports =
    (s.ports.consume port n).passTurn := rfl
@[simp] theorem consumed_out (port : Port) (n : Nat) : (consumed port n s).out = s.out := rfl

/-! ### turnPassed -/

@[simp] theorem turnPassed_params : (turnPassed s).params = s.params := rfl
@[simp] theorem turnPassed_tx : (turnPassed s).tx = s.tx := rfl
@[simp] theorem turnPassed_ovr : (turnPassed s).ovr = s.ovr := rfl
@[simp] theorem turnPassed_bidi : (turnPassed s).bidi = s.bidi := rfl
@[simp] theorem turnPassed_rx : (turnPassed s).rx = s.rx := rfl
@[simp] theorem turnPassed_fault : (turnPassed s).fault = s.fault := rfl
@[simp] theorem turnPassed_mem : (turnPassed s).mem = s.mem := rfl
@[simp] theorem turnPassed_ports : (turnPassed s).ports = s.ports.passTurn := rfl
@[simp] theorem turnPassed_out : (turnPassed s).out = s.out := rfl

/-! ### presented -/

@[simp] theorem presented_params (port : Port) (ws : List Word) : (presented port ws s).params =
    s.params := rfl
@[simp] theorem presented_tx (port : Port) (ws : List Word) : (presented port ws s).tx = s.tx := rfl
@[simp] theorem presented_ovr (port : Port) (ws : List Word) : (presented port ws s).ovr = s.ovr := rfl
@[simp] theorem presented_bidi (port : Port) (ws : List Word) : (presented port ws s).bidi = s.bidi := rfl
@[simp] theorem presented_rx (port : Port) (ws : List Word) : (presented port ws s).rx = s.rx := rfl
@[simp] theorem presented_fault (port : Port) (ws : List Word) : (presented port ws s).fault = s.fault := rfl
@[simp] theorem presented_mem (port : Port) (ws : List Word) : (presented port ws s).mem = s.mem := rfl
@[simp] theorem presented_ports (port : Port) (ws : List Word) : (presented port ws s).ports =
    s.ports.present port ws := rfl
@[simp] theorem presented_out (port : Port) (ws : List Word) : (presented port ws s).out = s.out := rfl

/-! ### loadActive -/

@[simp] theorem loadActive_params : (loadActive s).params = s.params := rfl
@[simp] theorem loadActive_tx : (loadActive s).tx = { s.tx with arrActive := s.tx.arrPreload } := rfl
@[simp] theorem loadActive_ovr : (loadActive s).ovr = s.ovr := rfl
@[simp] theorem loadActive_bidi : (loadActive s).bidi = s.bidi := rfl
@[simp] theorem loadActive_rx : (loadActive s).rx = s.rx := rfl
@[simp] theorem loadActive_fault : (loadActive s).fault = s.fault := rfl
@[simp] theorem loadActive_mem : (loadActive s).mem = s.mem := rfl
@[simp] theorem loadActive_ports : (loadActive s).ports = s.ports := rfl
@[simp] theorem loadActive_out : (loadActive s).out = s.out := rfl

/-! ### stopEngine -/

@[simp] theorem stopEngine_params : (stopEngine s).params = s.params := rfl
@[simp] theorem stopEngine_tx : (stopEngine s).tx =
    { s.tx with pins := .off, run := .stopped, stopReq := false } := rfl
@[simp] theorem stopEngine_ovr : (stopEngine s).ovr = s.ovr := rfl
@[simp] theorem stopEngine_bidi : (stopEngine s).bidi = s.bidi := rfl
@[simp] theorem stopEngine_rx : (stopEngine s).rx = s.rx := rfl
@[simp] theorem stopEngine_fault : (stopEngine s).fault = s.fault := rfl
@[simp] theorem stopEngine_mem : (stopEngine s).mem = s.mem := rfl
@[simp] theorem stopEngine_ports : (stopEngine s).ports = s.ports := rfl
@[simp] theorem stopEngine_out : (stopEngine s).out = s.out := rfl

/-! ### setCursor -/

@[simp] theorem setCursor_params (c : Cursor) : (setCursor c s).params = s.params := rfl
@[simp] theorem setCursor_tx (c : Cursor) : (setCursor c s).tx = { s.tx with cursor := c } := rfl
@[simp] theorem setCursor_ovr (c : Cursor) : (setCursor c s).ovr = s.ovr := rfl
@[simp] theorem setCursor_bidi (c : Cursor) : (setCursor c s).bidi = s.bidi := rfl
@[simp] theorem setCursor_rx (c : Cursor) : (setCursor c s).rx = s.rx := rfl
@[simp] theorem setCursor_fault (c : Cursor) : (setCursor c s).fault = s.fault := rfl
@[simp] theorem setCursor_mem (c : Cursor) : (setCursor c s).mem = s.mem := rfl
@[simp] theorem setCursor_ports (c : Cursor) : (setCursor c s).ports = s.ports := rfl
@[simp] theorem setCursor_out (c : Cursor) : (setCursor c s).out = s.out := rfl

/-! ### wrapHalting -/

@[simp] theorem wrapHalting_params : (wrapHalting s).params = s.params := rfl
@[simp] theorem wrapHalting_tx : (wrapHalting s).tx = { s.tx with cursor := .first, run := .halting } := rfl
@[simp] theorem wrapHalting_ovr : (wrapHalting s).ovr = s.ovr := rfl
@[simp] theorem wrapHalting_bidi : (wrapHalting s).bidi = s.bidi := rfl
@[simp] theorem wrapHalting_rx : (wrapHalting s).rx = s.rx := rfl
@[simp] theorem wrapHalting_fault : (wrapHalting s).fault = s.fault := rfl
@[simp] theorem wrapHalting_mem : (wrapHalting s).mem = s.mem := rfl
@[simp] theorem wrapHalting_ports : (wrapHalting s).ports = s.ports := rfl
@[simp] theorem wrapHalting_out : (wrapHalting s).out = s.out := rfl

/-! ### setReload -/

@[simp] theorem setReload_params (r : Int) : (setReload r s).params = s.params := rfl
@[simp] theorem setReload_tx (r : Int) : (setReload r s).tx =
    { s.tx with arrPreload := BitVec.ofInt 32 r } := rfl
@[simp] theorem setReload_ovr (r : Int) : (setReload r s).ovr = s.ovr := rfl
@[simp] theorem setReload_bidi (r : Int) : (setReload r s).bidi = s.bidi := rfl
@[simp] theorem setReload_rx (r : Int) : (setReload r s).rx = s.rx := rfl
@[simp] theorem setReload_fault (r : Int) : (setReload r s).fault = s.fault := rfl
@[simp] theorem setReload_mem (r : Int) : (setReload r s).mem = s.mem := rfl
@[simp] theorem setReload_ports (r : Int) : (setReload r s).ports = s.ports := rfl
@[simp] theorem setReload_out (r : Int) : (setReload r s).out =
    { kind := .done, resp := [], reload := some (BitVec.ofInt 32 r) } := rfl

/-! ### emitTrack -/

@[simp] theorem emitTrack_params (c : Cursor) : (emitTrack c s).params = s.params := rfl
@[simp] theorem emitTrack_ovr (c : Cursor) : (emitTrack c s).ovr = s.ovr := rfl
@[simp] theorem emitTrack_bidi (c : Cursor) : (emitTrack c s).bidi = s.bidi := rfl
@[simp] theorem emitTrack_rx (c : Cursor) : (emitTrack c s).rx = s.rx := rfl
@[simp] theorem emitTrack_fault (c : Cursor) : (emitTrack c s).fault = s.fault := rfl
@[simp] theorem emitTrack_mem (c : Cursor) : (emitTrack c s).mem = s.mem := rfl
@[simp] theorem emitTrack_ports (c : Cursor) : (emitTrack c s).ports = s.ports := rfl
@[simp] theorem emitTrack_out (c : Cursor) : (emitTrack c s).out = s.out := rfl

/-! ### emitBidiStart -/

@[simp] theorem emitBidiStart_params : (emitBidiStart s).params = s.params := rfl
@[simp] theorem emitBidiStart_ovr : (emitBidiStart s).ovr = s.ovr := rfl
@[simp] theorem emitBidiStart_bidi : (emitBidiStart s).bidi = { s.bidi with n1 := 0, n2 := 0 } := rfl
@[simp] theorem emitBidiStart_rx : (emitBidiStart s).rx = s.rx := rfl
@[simp] theorem emitBidiStart_fault : (emitBidiStart s).fault = s.fault := rfl
@[simp] theorem emitBidiStart_mem : (emitBidiStart s).mem = s.mem.clear brawBase bidiRegion := rfl
@[simp] theorem emitBidiStart_ports : (emitBidiStart s).ports = s.ports := rfl
@[simp] theorem emitBidiStart_out : (emitBidiStart s).out = s.out := rfl

/-! ### emitArm -/

@[simp] theorem emitArm_params (ch : Channel) : (emitArm ch s).params = s.params := rfl
@[simp] theorem emitArm_tx (ch : Channel) : (emitArm ch s).tx =
    { s.tx with pins := { s.tx.pins with rcCh := ch, trigger := false } } := rfl
@[simp] theorem emitArm_ovr (ch : Channel) : (emitArm ch s).ovr = s.ovr := rfl
@[simp] theorem emitArm_bidi (ch : Channel) : (emitArm ch s).bidi = s.bidi := rfl
@[simp] theorem emitArm_rx (ch : Channel) : (emitArm ch s).rx = s.rx := rfl
@[simp] theorem emitArm_fault (ch : Channel) : (emitArm ch s).fault = s.fault := rfl
@[simp] theorem emitArm_mem (ch : Channel) : (emitArm ch s).mem = s.mem := rfl
@[simp] theorem emitArm_ports (ch : Channel) : (emitArm ch s).ports = s.ports := rfl
@[simp] theorem emitArm_out (ch : Channel) : (emitArm ch s).out = s.out := rfl

/-! ### emitBidiEnd -/

@[simp] theorem emitBidiEnd_params : (emitBidiEnd s).params = s.params := rfl
@[simp] theorem emitBidiEnd_ovr : (emitBidiEnd s).ovr = s.ovr := rfl
@[simp] theorem emitBidiEnd_bidi : (emitBidiEnd s).bidi =
    { s.bidi with sn1 := s.bidi.n1, sn2 := s.bidi.n2, ready := true } := rfl
@[simp] theorem emitBidiEnd_rx : (emitBidiEnd s).rx = s.rx := rfl
@[simp] theorem emitBidiEnd_fault : (emitBidiEnd s).fault = s.fault := rfl
@[simp] theorem emitBidiEnd_mem : (emitBidiEnd s).mem = s.mem.copy brawBase bsnapBase bidiRegion := rfl
@[simp] theorem emitBidiEnd_ports : (emitBidiEnd s).ports = s.ports := rfl
@[simp] theorem emitBidiEnd_out : (emitBidiEnd s).out = s.out := rfl

/-! ### enterFrame -/

@[simp] theorem enterFrame_params : (enterFrame s).params = s.params := rfl
@[simp] theorem enterFrame_tx : (enterFrame s).tx =
    { s.tx with actLen := latchedLen s, mboxFull := false, mboxLen := 0 } := rfl
@[simp] theorem enterFrame_ovr : (enterFrame s).ovr = s.ovr := rfl
@[simp] theorem enterFrame_bidi : (enterFrame s).bidi = s.bidi := rfl
@[simp] theorem enterFrame_rx : (enterFrame s).rx = s.rx := rfl
@[simp] theorem enterFrame_fault : (enterFrame s).fault = s.fault := rfl
@[simp] theorem enterFrame_mem : (enterFrame s).mem =
    (s.mem.fill actBase packetRegion (latchedByte s)).clear mboxBase packetRegion := rfl
@[simp] theorem enterFrame_ports : (enterFrame s).ports = s.ports := rfl
@[simp] theorem enterFrame_out : (enterFrame s).out = s.out := rfl

/-! ### startFrame -/

@[simp] theorem startFrame_params : (startFrame s).params = s.params := rfl
@[simp] theorem startFrame_tx : (startFrame s).tx =
    { s.tx with actLen := latchedLen s, mboxFull := false, mboxLen := 0, cursor := .first, pol := false, stopReq := false, arrActive := s.tx.cfg.bit1Ticks, arrPreload := s.tx.cfg.bit1Ticks, run := .running } := rfl
@[simp] theorem startFrame_ovr : (startFrame s).ovr = s.ovr := rfl
@[simp] theorem startFrame_bidi : (startFrame s).bidi = s.bidi := rfl
@[simp] theorem startFrame_rx : (startFrame s).rx = s.rx := rfl
@[simp] theorem startFrame_fault : (startFrame s).fault = s.fault := rfl
@[simp] theorem startFrame_mem : (startFrame s).mem =
    (s.mem.fill actBase packetRegion (latchedByte s)).clear mboxBase packetRegion := rfl
@[simp] theorem startFrame_ports : (startFrame s).ports = s.ports := rfl
@[simp] theorem startFrame_out : (startFrame s).out = s.out := rfl

/-! ### fillMailbox -/

@[simp] theorem fillMailbox_params (bytes : List Byte) : (fillMailbox bytes s).params = s.params := rfl
@[simp] theorem fillMailbox_tx (bytes : List Byte) : (fillMailbox bytes s).tx =
    { s.tx with mboxLen := BitVec.ofNat 8 bytes.length, mboxFull := true } := rfl
@[simp] theorem fillMailbox_ovr (bytes : List Byte) : (fillMailbox bytes s).ovr = s.ovr := rfl
@[simp] theorem fillMailbox_bidi (bytes : List Byte) : (fillMailbox bytes s).bidi = s.bidi := rfl
@[simp] theorem fillMailbox_rx (bytes : List Byte) : (fillMailbox bytes s).rx = s.rx := rfl
@[simp] theorem fillMailbox_fault (bytes : List Byte) : (fillMailbox bytes s).fault = s.fault := rfl
@[simp] theorem fillMailbox_mem (bytes : List Byte) : (fillMailbox bytes s).mem =
    s.mem.fill mboxBase packetRegion fun i => bytes.getD i 0 := rfl
@[simp] theorem fillMailbox_ports (bytes : List Byte) : (fillMailbox bytes s).ports = s.ports := rfl
@[simp] theorem fillMailbox_out (bytes : List Byte) : (fillMailbox bytes s).out = s.out := rfl

/-! ### configure -/

@[simp] theorem configure_params (np : Byte) (bidi invert trig : Bool) (b1 b0 : BitVec 16) : (configure np bidi invert trig b1 b0 s).params =
    s.params := rfl
@[simp] theorem configure_ovr (np : Byte) (bidi invert trig : Bool) (b1 b0 : BitVec 16) : (configure np bidi invert trig b1 b0 s).ovr =
    s.ovr := rfl
@[simp] theorem configure_bidi (np : Byte) (bidi invert trig : Bool) (b1 b0 : BitVec 16) : (configure np bidi invert trig b1 b0 s).bidi =
    { s.bidi with n1 := 0, n2 := 0, sn1 := 0, sn2 := 0, ready := false } := rfl
@[simp] theorem configure_rx (np : Byte) (bidi invert trig : Bool) (b1 b0 : BitVec 16) : (configure np bidi invert trig b1 b0 s).rx =
    s.rx := rfl
@[simp] theorem configure_fault (np : Byte) (bidi invert trig : Bool) (b1 b0 : BitVec 16) : (configure np bidi invert trig b1 b0 s).fault =
    s.fault := rfl
@[simp] theorem configure_mem (np : Byte) (bidi invert trig : Bool) (b1 b0 : BitVec 16) : (configure np bidi invert trig b1 b0 s).mem =
    (((s.mem.clear mboxBase packetRegion).clear actBase packetRegion).clear brawBase bidiRegion).clear bsnapBase bidiRegion := rfl
@[simp] theorem configure_ports (np : Byte) (bidi invert trig : Bool) (b1 b0 : BitVec 16) : (configure np bidi invert trig b1 b0 s).ports =
    s.ports := rfl
@[simp] theorem configure_out (np : Byte) (bidi invert trig : Bool) (b1 b0 : BitVec 16) : (configure np bidi invert trig b1 b0 s).out =
    s.out := rfl

/-! ### huntReset -/

@[simp] theorem huntReset_params : (huntReset s).params = s.params := rfl
@[simp] theorem huntReset_tx : (huntReset s).tx = s.tx := rfl
@[simp] theorem huntReset_ovr : (huntReset s).ovr = s.ovr := rfl
@[simp] theorem huntReset_bidi : (huntReset s).bidi = s.bidi := rfl
@[simp] theorem huntReset_rx : (huntReset s).rx =
    { s.rx with st := .hunt, h := 0, first := .none, bitcnt := 0, acc := 0, n := 0 } := rfl
@[simp] theorem huntReset_fault : (huntReset s).fault = s.fault := rfl
@[simp] theorem huntReset_mem : (huntReset s).mem = s.mem.clear rxbBase packetRegion := rfl
@[simp] theorem huntReset_ports : (huntReset s).ports = s.ports := rfl
@[simp] theorem huntReset_out : (huntReset s).out = s.out := rfl

/-! ### fillReady -/

@[simp] theorem fillReady_params : (fillReady s).params = s.params := rfl
@[simp] theorem fillReady_tx : (fillReady s).tx = s.tx := rfl
@[simp] theorem fillReady_ovr : (fillReady s).ovr = s.ovr := rfl
@[simp] theorem fillReady_bidi : (fillReady s).bidi = s.bidi := rfl
@[simp] theorem fillReady_rx : (fillReady s).rx = { s.rx with readyLen := s.rx.n, ready := true } := rfl
@[simp] theorem fillReady_fault : (fillReady s).fault = s.fault := rfl
@[simp] theorem fillReady_mem : (fillReady s).mem = s.mem.copy rxbBase rxrBase packetRegion := rfl
@[simp] theorem fillReady_ports : (fillReady s).ports = s.ports := rfl
@[simp] theorem fillReady_out : (fillReady s).out = s.out := rfl

/-! ### recordEdge -/

@[simp] theorem recordEdge_params (ts : Word) : (recordEdge ts s).params = s.params := rfl
@[simp] theorem recordEdge_tx (ts : Word) : (recordEdge ts s).tx = s.tx := rfl
@[simp] theorem recordEdge_ovr (ts : Word) : (recordEdge ts s).ovr = s.ovr := rfl
@[simp] theorem recordEdge_bidi (ts : Word) : (recordEdge ts s).bidi = s.bidi := rfl
@[simp] theorem recordEdge_rx (ts : Word) : (recordEdge ts s).rx =
    { s.rx with lastTs := ts, tsValid := true } := rfl
@[simp] theorem recordEdge_fault (ts : Word) : (recordEdge ts s).fault = s.fault := rfl
@[simp] theorem recordEdge_mem (ts : Word) : (recordEdge ts s).mem = s.mem := rfl
@[simp] theorem recordEdge_ports (ts : Word) : (recordEdge ts s).ports = s.ports := rfl
@[simp] theorem recordEdge_out (ts : Word) : (recordEdge ts s).out = s.out := rfl

/-! ### rxRestart -/

@[simp] theorem rxRestart_params (e : Bool) : (rxRestart e s).params = s.params := rfl
@[simp] theorem rxRestart_tx (e : Bool) : (rxRestart e s).tx = s.tx := rfl
@[simp] theorem rxRestart_ovr (e : Bool) : (rxRestart e s).ovr = s.ovr := rfl
@[simp] theorem rxRestart_bidi (e : Bool) : (rxRestart e s).bidi = s.bidi := rfl
@[simp] theorem rxRestart_rx (e : Bool) : (rxRestart e s).rx = { Rx.reset with bidiEn := e } := rfl
@[simp] theorem rxRestart_fault (e : Bool) : (rxRestart e s).fault = s.fault := rfl
@[simp] theorem rxRestart_mem (e : Bool) : (rxRestart e s).mem =
    (s.mem.clear rxbBase packetRegion).clear rxrBase packetRegion := rfl
@[simp] theorem rxRestart_ports (e : Bool) : (rxRestart e s).ports = s.ports := rfl
@[simp] theorem rxRestart_out (e : Bool) : (rxRestart e s).out = s.out := rfl

end

end Sys2Proof.Machine
end

