-- ==== Sys2Proof/Laws/Ops.lean ====
section
/-! SUPPORT. For each shared operation, what it leaves alone; for each meaning, the cases in which it answers
a next state; for `step`, the same. Proofs cite these and unfold none of the operations again. -/

namespace Sys2Proof.Machine

/-! ### The transmit engine's outputs -/

section
variable (s : State) (c : Cursor)

@[simp] theorem emit_params : (emit c s).params = s.params := by unfold emit; split <;> rfl
@[simp] theorem emit_ovr : (emit c s).ovr = s.ovr := by unfold emit; split <;> rfl
@[simp] theorem emit_rx : (emit c s).rx = s.rx := by unfold emit; split <;> rfl
@[simp] theorem emit_fault : (emit c s).fault = s.fault := by unfold emit; split <;> rfl
@[simp] theorem emit_ports : (emit c s).ports = s.ports := by unfold emit; split <;> rfl
@[simp] theorem emit_out : (emit c s).out = s.out := by unfold emit; split <;> rfl
@[simp] theorem emit_run : (emit c s).tx.run = s.tx.run := by unfold emit; split <;> rfl
@[simp] theorem emit_cfg : (emit c s).tx.cfg = s.tx.cfg := by unfold emit; split <;> rfl
@[simp] theorem emit_stopReq : (emit c s).tx.stopReq = s.tx.stopReq := by unfold emit; split <;> rfl
@[simp] theorem emit_cursor : (emit c s).tx.cursor = s.tx.cursor := by unfold emit; split <;> rfl
@[simp] theorem emit_mboxFull : (emit c s).tx.mboxFull = s.tx.mboxFull := by unfold emit; split <;> rfl
@[simp] theorem emit_mboxLen : (emit c s).tx.mboxLen = s.tx.mboxLen := by unfold emit; split <;> rfl
@[simp] theorem emit_actLen : (emit c s).tx.actLen = s.tx.actLen := by unfold emit; split <;> rfl
@[simp] theorem emit_arrActive : (emit c s).tx.arrActive = s.tx.arrActive := by unfold emit; split <;> rfl
@[simp] theorem emit_arrPreload : (emit c s).tx.arrPreload = s.tx.arrPreload := by unfold emit; split <;> rfl

/-- R154: only Preamble and Data slots toggle the polarity. -/
theorem emit_pol :
    (emit c s).tx.pol = if c.phase = .preamble ∨ c.phase = .data then !s.tx.pol else s.tx.pol := by
  obtain ⟨ph, j, k, hf⟩ := c
  cases ph <;> simp [emit, emitTrack, emitBidiStart, emitArm, emitBidiEnd, drive]

/-- R154: the buffer space changes at BiDiStart and BiDiEnd only. -/
theorem emit_mem :
    (emit c s).mem =
      match c.phase with
      | .bidiStart => s.mem.clear brawBase bidiRegion
      | .bidiEnd => s.mem.copy brawBase bsnapBase bidiRegion
      | .preamble | .data | .bidiCh1 | .bidiCh2 => s.mem := by
  obtain ⟨ph, j, k, hf⟩ := c
  cases ph <;> rfl

/-- R154: the return-channel counts change at BiDiStart and BiDiEnd only. -/
theorem emit_bidi :
    (emit c s).bidi =
      match c.phase with
      | .bidiStart => { s.bidi with n1 := 0, n2 := 0 }
      | .bidiEnd => { s.bidi with sn1 := s.bidi.n1, sn2 := s.bidi.n2, ready := true }
      | .preamble | .data | .bidiCh1 | .bidiCh2 => s.bidi := by
  obtain ⟨ph, j, k, hf⟩ := c
  cases ph <;> rfl

end

/-- R154: `emit` changes no byte outside BRAW and BSNAP. -/
theorem emit_read {s : State} (h : s.mem.wf = true) (c : Cursor) (a : Nat)
    (ha : ¬ (brawBase ≤ a ∧ a < brawBase + bidiRegion) ∧ ¬ (bsnapBase ≤ a ∧ a < bsnapBase + bidiRegion)) :
    (emit c s).mem.read a = s.mem.read a := by
  rw [emit_mem]
  cases c.phase <;> simp only
  · rw [Memory.read_clear h _ _ _ (by decide), if_neg ha.1]
  · rw [Memory.read_copy h _ _ _ _ (by decide), if_neg ha.2]

/-- `emit` keeps the canonical form. -/
theorem emit_wf {s : State} (h : s.mem.wf = true) (c : Cursor) : (emit c s).mem.wf = true := by
  rw [emit_mem]
  cases c.phase <;> simp only [h]
  · exact Memory.clear_wf h _ _
  · exact Memory.copy_wf h _ _ _

/-- R157: the bytes after a latch: MBOX is zero, ACT is the latched packet, the rest is as before. -/
theorem enterFrame_read {s : State} (h : s.mem.wf = true) (a : Nat) :
    (enterFrame s).mem.read a =
      if a < packetRegion then 0
      else if a < actBase + packetRegion then latchedByte s (a - actBase) else s.mem.read a := by
  unfold enterFrame
  simp only
  rw [Memory.read_clear (Memory.fill_wf h _ _ _) _ _ _ (by decide), Memory.read_fill h _ _ _ _ (by decide)]
  simp only [mboxBase, actBase, packetRegion, Nat.zero_le, true_and, Nat.zero_add]
  by_cases h1 : a < 32
  · simp [h1]
  · by_cases h2 : a < 32 + 32
    · simp only [h1, if_false, h2, if_true, and_true, if_pos (Nat.le_of_not_lt h1)]
    · simp only [h1, if_false, h2, and_false]

/-- A latch keeps the canonical form. -/
theorem enterFrame_wf {s : State} (h : s.mem.wf = true) : (enterFrame s).mem.wf = true :=
  Memory.clear_wf (Memory.fill_wf h _ _ _) _ _

/-- R153: the length of a slot depends on the configuration, the active packet and the override only. -/
theorem dur_congr {s t : State} (c : Cursor) (hc : t.tx.cfg = s.tx.cfg) (ha : t.tx.actLen = s.tx.actLen)
    (hp : t.params = s.params) (ho : t.ovr = s.ovr)
    (hm : ∀ i < packetRegion, t.mem.read (actBase + i) = s.mem.read (actBase + i))
    (hb : c.phase = .data → c.bitIdx ≠ 0 → c.byteIdx.toNat < packetRegion) : dur t c = dur s c := by
  have hv : c.phase = .data → bitval t c.byteIdx c.bitIdx = bitval s c.byteIdx c.bitIdx := by
    intro hd
    unfold bitval
    by_cases hk : c.bitIdx = 0
    · simp only [hk, if_true, ha]
    · simp only [hk, if_false, hm _ (hb hd hk)]
  obtain ⟨ph, j, k, hf⟩ := c
  cases ph <;> simp only [dur, hc, hp]
  simp only [forall_const] at hv
  rw [hv]
  simp only [ovrAdjust, hp, ho]

/-- R162: the three ways a Running engine moves its cursor. -/
theorem advance_cases (s : State) :
    (nextSlot s.tx.cfg s.tx.actLen s.tx.cursor = none ∧ s.tx.stopReq = true ∧
      advance s = (wrapHalting s, .ok s.tx.cfg.bit1Ticks.toNat)) ∨
    (nextSlot s.tx.cfg s.tx.actLen s.tx.cursor = none ∧ s.tx.stopReq = false ∧
      advance s = (setCursor .first (enterFrame s), .ok s.tx.cfg.bit1Ticks.toNat)) ∨
    (∃ c, nextSlot s.tx.cfg s.tx.actLen s.tx.cursor = some c ∧
      advance s = (setCursor c s, dur (setCursor c s) c)) := by
  unfold advance
  split
  · rename_i h
    by_cases hs : s.tx.stopReq = true
    · exact .inl ⟨h, hs, by simp [hs]⟩
    · have hs' : s.tx.stopReq = false := by simpa using hs
      exact .inr (.inl ⟨h, hs', by simp [hs', dur, Cursor.first]⟩)
  · rename_i c h
    exact .inr (.inr ⟨c, h, rfl⟩)

/-- R162: the cases in which TX_UPDATE answers a next state. -/
theorem execTxUpdate_next {s t : State} (h : execTxUpdate s = .next t) :
    (s.tx.run = .uninit ∧ t = raise .notInitialized s) ∨
    (s.tx.run = .stopped ∧ t = noStep s) ∨
    (s.tx.run = .halting ∧ t = finish (stopEngine (loadActive s))) ∨
    (s.tx.run = .running ∧ ∃ s' r, emitAndAdvance s = (s', .ok r) ∧
      ((reloadOk s.params r = true ∧ t = setReload r s') ∨
       (reloadOk s.params r = false ∧ t = raise .reloadRange (stopEngine s)))) := by
  unfold execTxUpdate at h
  cases hr : s.tx.run <;> simp only [hr] at h
  · exact .inl ⟨rfl, by simpa using h.symm⟩
  · exact .inr (.inl ⟨rfl, by simpa using h.symm⟩)
  · refine .inr (.inr (.inr ⟨rfl, ?_⟩))
    generalize hea : emitAndAdvance s = p at h
    obtain ⟨s', e⟩ := p
    cases e with
    | error f => simp at h
    | ok r =>
      refine ⟨s', r, rfl, ?_⟩
      by_cases hro : reloadOk s.params r = true
      · exact .inl ⟨hro, by simpa [hro] using h.symm⟩
      · have hro' : reloadOk s.params r = false := by simpa using hro
        exact .inr ⟨hro', by simpa [hro'] using h.symm⟩
  · exact .inr (.inr (.inl ⟨rfl, by simpa using h.symm⟩))

/-- R158: the cases of INIT_TX. -/
theorem execInitTx_next {np : Byte} {bidi invert trig : Bool} {b1 b0 : BitVec 16} {s t : State}
    (h : execInitTx np bidi invert trig b1 b0 s = .next t) :
    (s.tx.run = .running ∨ s.tx.run = .halting) ∧ t = raise .busy s ∨
    (s.tx.run = .uninit ∨ s.tx.run = .stopped) ∧
      (configOk s.params np bidi b1 b0 = true ∧ t = finish (configure np bidi invert trig b1 b0 s) ∨
       configOk s.params np bidi b1 b0 = false ∧ t = raise .configInvalid s) := by
  unfold execInitTx at h
  by_cases hc : configOk s.params np bidi b1 b0 = true <;> cases hr : s.tx.run <;>
    simp_all

/-- R159: the cases of PACKET. -/
theorem execPacket_next {bytes : List Byte} {s t : State} (h : execPacket bytes s = .next t) :
    (s.params.pktCapacity < bytes.length ∧ t = raise .packetLength s) ∨
    (bytes.length ≤ s.params.pktCapacity ∧ t = finish (fillMailbox bytes s)) := by
  unfold execPacket at h
  split at h
  · exact .inl ⟨by assumption, by simpa using h.symm⟩
  · exact .inr ⟨by omega, by simpa using h.symm⟩

/-- R160: the cases of START. -/
theorem execStart_next {s t : State} (h : execStart s = .next t) :
    (s.tx.run = .uninit ∧ t = raise .notInitialized s) ∨
    ((s.tx.run = .running ∨ s.tx.run = .halting) ∧ t = raise .busy s) ∨
    (s.tx.run = .stopped ∧ t = finish (startFrame s)) := by
  unfold execStart at h
  cases hr : s.tx.run <;> simp_all

/-- R161: the cases of STOP. -/
theorem execStop_next {s t : State} (h : execStop s = .next t) :
    (s.tx.run = .running ∧ t = finish { s with tx := { s.tx with stopReq := true } }) ∨
    (s.tx.run ≠ .running ∧ t = finish s) := by
  unfold execStop at h
  cases hr : s.tx.run <;> simp_all

/-! ### The receive engine -/

/-- What no framing step changes. -/
structure RxFrame (s t : State) : Prop where
  params : t.params = s.params
  tx : t.tx = s.tx
  ovr : t.ovr = s.ovr
  bidi : t.bidi = s.bidi
  fault : t.fault = s.fault
  ports : t.ports = s.ports
  out : t.out = s.out

theorem huntReset_frame (s : State) : RxFrame s (huntReset s) := ⟨rfl, rfl, rfl, rfl, rfl, rfl, rfl⟩

theorem packetEnd_frame (ts : Word) (t : Nat) (s : State) : RxFrame s (packetEnd ts t s) := by
  unfold packetEnd armOneShot
  split
  · split <;> exact ⟨rfl, rfl, rfl, rfl, rfl, rfl, rfl⟩
  · exact huntReset_frame s

theorem huntStep_frame (one : Bool) (s : State) : RxFrame s (huntStep one s) := by
  unfold huntStep
  split
  · exact ⟨rfl, rfl, rfl, rfl, rfl, rfl, rfl⟩
  · split <;> exact ⟨rfl, rfl, rfl, rfl, rfl, rfl, rfl⟩

theorem start2Step_frame (one : Bool) (s : State) : RxFrame s (start2Step one s) := by
  unfold start2Step
  split
  · exact huntReset_frame s
  · exact ⟨rfl, rfl, rfl, rfl, rfl, rfl, rfl⟩

theorem takeBit_frame {one : Bool} {s t : State} (h : takeBit one s = .ok t) : RxFrame s t := by
  simp only [takeBit, storeByte] at h
  repeat' split at h
  all_goals first
    | (cases h; done)
    | (cases h; exact ⟨rfl, rfl, rfl, rfl, rfl, rfl, rfl⟩)

theorem dataStep_frame {one : Bool} {ts : Word} {d : Nat} {s t : State} (h : dataStep one ts d s = .ok t) :
    RxFrame s t := by
  unfold dataStep at h
  repeat' split at h
  · cases h; exact packetEnd_frame ts d s
  · cases h
  · cases h; exact ⟨rfl, rfl, rfl, rfl, rfl, rfl, rfl⟩
  · cases h; exact huntReset_frame s
  · cases h; exact ⟨rfl, rfl, rfl, rfl, rfl, rfl, rfl⟩
  · exact takeBit_frame h

theorem frameStep_frame {one : Bool} {ts : Word} {d : Nat} {s t : State} (h : frameStep one ts d s = .ok t) :
    RxFrame s t := by
  unfold frameStep at h
  split at h
  · cases h; exact huntStep_frame one s
  · cases h; exact start2Step_frame one s
  · exact dataStep_frame h

/-- R202: the cases of the capture step. -/
theorem captureStep_cases {ts : Word} {s t : State} (h : captureStep ts s = .ok t) :
    (s.rx.tsValid = false ∧ t = recordEdge ts s) ∨
    (s.rx.tsValid = true ∧ classify s.params (interval s ts) = .invalid ∧ t = huntReset (recordEdge ts s)) ∨
    (∃ one, s.rx.tsValid = true ∧ classify s.params (interval s ts) = (if one then .one else .zero) ∧
      frameStep one ts (interval s ts) (recordEdge ts s) = .ok t) := by
  unfold captureStep at h
  by_cases hv : s.rx.tsValid = true
  · simp only [hv, if_true] at h
    split at h
    · rename_i hc
      exact .inr (.inl ⟨hv, hc, by simpa using h.symm⟩)
    · rename_i hc
      exact .inr (.inr ⟨true, hv, by simpa using hc, h⟩)
    · rename_i hc
      exact .inr (.inr ⟨false, hv, by simpa using hc, h⟩)
  · simp only [hv] at h
    exact .inl ⟨by simpa using hv, by simpa using h.symm⟩

theorem captureStep_frame {ts : Word} {s t : State} (h : captureStep ts s = .ok t) : RxFrame s t := by
  rcases captureStep_cases h with ⟨-, rfl⟩ | ⟨-, -, rfl⟩ | ⟨one, -, -, hf⟩
  · exact ⟨rfl, rfl, rfl, rfl, rfl, rfl, rfl⟩
  · exact ⟨rfl, rfl, rfl, rfl, rfl, rfl, rfl⟩
  · have := frameStep_frame hf
    exact ⟨this.params, this.tx, this.ovr, this.bidi, this.fault, this.ports, this.out⟩

/-- R202: the cases in which RX_CAPTURE answers a next state. -/
theorem execRxCapture_next {ts : Word} {s t : State} (h : execRxCapture ts s = .next t) :
    (2 ^ s.params.capBits ≤ ts.toNat ∧ t = raise .fieldInvalid s) ∨
    (ts.toNat < 2 ^ s.params.capBits ∧ ∃ s', captureStep ts s = .ok s' ∧ t = finish s') := by
  unfold execRxCapture at h
  split at h
  · exact .inl ⟨by assumption, by simpa using h.symm⟩
  · split at h
    · rename_i s' hs
      exact .inr ⟨by omega, s', hs, by simpa using h.symm⟩
    · simp at h

/-- R208: the cases of RX_TAKE. -/
theorem execRxTake_next {s t : State} (h : execRxTake s = .next t) :
    (s.rx.ready = false ∧ t = respond [0] s) ∨
    (s.rx.ready = true ∧
      t = respond (rxTakeHeader s :: packBytes (s.mem.bytes rxrBase s.rx.readyLen.toNat))
        { s with rx := { s.rx with ready := false } }) := by
  unfold execRxTake at h
  split at h
  · rename_i hr
    split at h
    · exact .inr ⟨hr, by simpa using h.symm⟩
    · simp at h
  · rename_i hr
    exact .inl ⟨by simpa using hr, by simpa using h.symm⟩

/-- R209: the cases of RX_BIDI_FIRE. -/
theorem execRxBidiFire_next {s t : State} (h : execRxBidiFire s = .next t) :
    (s.rx.os = .idle ∧ t = noStep s) ∨
    (s.rx.os = .armedCh1 ∧ t = finish { s with rx := { s.rx with win := .ch1, os := .armedCh2 } }) ∨
    (s.rx.os = .armedCh2 ∧ t = finish { s with rx := { s.rx with win := .ch2, os := .idle } }) := by
  unfold execRxBidiFire at h
  cases hr : s.rx.os <;> simp_all

/-! ### The return channel and the status reads -/

/-- R252: the address BIDI_BYTE stores to is a byte of BRAW. -/
theorem bidiStoreAddr_range {s : State} {a : Nat} (h : bidiStoreAddr s = some a) :
    brawBase ≤ a ∧ a < brawBase + bidiRegion := by
  unfold bidiStoreAddr at h
  repeat' split at h
  all_goals simp_all [brawBase, bidiRegion, ch1Bytes, ch2Bytes]
  all_goals omega

/-- R252: the cases of BIDI_BYTE. -/
theorem execBidiByte_next {b : Byte} {s t : State} (h : execBidiByte b s = .next t) :
    (bidiStoreAddr s = none ∧ t = finish s) ∨
    (∃ a, bidiStoreAddr s = some a ∧
      t = finish { s with mem := s.mem.write a b, bidi := countByte s.tx.pins.rcCh s.bidi }) := by
  unfold execBidiByte at h
  split at h
  · exact .inl ⟨by assumption, by simpa using h.symm⟩
  · rename_i a ha
    exact .inr ⟨a, ha, by simpa using h.symm⟩

/-- R254: the cases of BIDI_TAKE. -/
theorem execBidiTake_next {s t : State} (h : execBidiTake s = .next t) :
    (s.bidi.ready = false ∧ t = respond [0, 0, 0] s) ∨
    (s.bidi.ready = true ∧
      t = respond (bidiTakeHeader s :: packBytes (s.mem.bytes bsnapBase bidiRegion))
        { s with bidi := { s.bidi with ready := false } }) := by
  unfold execBidiTake at h
  split at h
  · rename_i hr
    exact .inr ⟨hr, by simpa using h.symm⟩
  · rename_i hr
    exact .inl ⟨by simpa using hr, by simpa using h.symm⟩

/-- R250: the cases of SET_BIDI_THRESHOLD. -/
theorem execSetBidiThreshold_next {v : BitVec 16} {s t : State} (h : execSetBidiThreshold v s = .next t) :
    (2 ^ s.params.dacBits ≤ v.toNat ∧ t = raise .fieldInvalid s) ∨
    (v.toNat < 2 ^ s.params.dacBits ∧ t = finish { s with bidi := { s.bidi with threshold := v } }) := by
  unfold execSetBidiThreshold at h
  split at h
  · exact .inl ⟨by assumption, by simpa using h.symm⟩
  · exact .inr ⟨by omega, by simpa using h.symm⟩

/-- R320: the cases of READ_REG. -/
theorem execReadReg_next {n : Byte} {s t : State} (h : execReadReg n s = .next t) :
    (reg s n = none ∧ t = raise .fieldInvalid s) ∨ (∃ w, reg s n = some w ∧ t = respond [w] s) := by
  unfold execReadReg at h
  split at h
  · rename_i w hw
    exact .inr ⟨w, hw, by simpa using h.symm⟩
  · exact .inl ⟨by assumption, by simpa using h.symm⟩

/-- R321: the cases of READ_BUF. -/
theorem execReadBuf_next {a : Byte} {s t : State} (h : execReadBuf a s = .next t) :
    (bufferByte s a = none ∧ t = raise .fieldInvalid s) ∨
    (∃ w, bufferByte s a = some w ∧ t = respond [w] s) := by
  unfold execReadBuf at h
  split at h
  · rename_i w hw
    exact .inr ⟨w, hw, by simpa using h.symm⟩
  · exact .inl ⟨by assumption, by simpa using h.symm⟩

/-! ### One step -/

/-- The cases in which a step answers a next state. -/
theorem step_next {s t : State} (h : step s = .next t) :
    s.params.valid = true ∧
    ((s.ports.turns = [] ∧ t = await s) ∨
     (∃ port, s.ports.turns.head? = some port ∧
       ((fetch s port = .incomplete ∧ t = await (turnPassed s)) ∨
        (fetch s port = .illegalOpcode ∧ t = raise .illegalOpcode (consumed port 1 s)) ∨
        (∃ n, fetch s port = .fieldInvalid n ∧ t = raise .fieldInvalid (consumed port n s)) ∨
        (∃ i n, fetch s port = .cmd i n ∧ exec i (consumed port n s) = .next t)))) := by
  unfold step at h
  split at h
  · simp at h
  · rename_i hv
    refine ⟨by simpa using hv, ?_⟩
    split at h
    · rename_i ht
      exact .inl ⟨ht, by simpa using h.symm⟩
    · rename_i port rest ht
      refine .inr ⟨port, by simp [ht], ?_⟩
      split at h
      · exact .inl ⟨by assumption, by simpa using h.symm⟩
      · exact .inr (.inl ⟨by assumption, by simpa using h.symm⟩)
      · rename_i n hn
        exact .inr (.inr (.inl ⟨n, hn, by simpa using h.symm⟩))
      · rename_i i n hi
        exact .inr (.inr (.inr ⟨i, n, hi, h⟩))

end Sys2Proof.Machine
end

