-- ==== Sys2Proof/Laws/PerInstr.lean ====
section
/-! SUPPORT. Statements for all operations, one lemma per constructor (LAWS.json). -/

namespace Sys2Proof.Laws.EncodeShape

/-- The first word of an operation's encoding selects the operation's row on its port (R92), and the
encoding has as many words as the decoder reads from that word (R105). -/
def Statement (i : Instr) : Prop :=
  (∀ bytes, i = .packet bytes → bytes.length ≤ 255) →
    ∃ w0 payload, encode i = w0 :: payload ∧ Op.ofHeader i.port w0 = some i.op ∧
      payload.length + 1 = i.op.words (aField w0)

/-- An operation with a fixed number of words. -/
theorem of_words (i : Instr) (h : i.payload.length + 1 = i.op.words i.aOperand) : Statement i := by
  intro _
  exact ⟨_, _, rfl, ofHeader_headerWord _ _ _, by simpa using h⟩

theorem initTx (np : Byte) (bidi invert trig : Bool) (bit1Us bit0Us : BitVec 16) :
    Statement (.initTx np bidi invert trig bit1Us bit0Us) := of_words _ rfl

theorem packet (bytes : List Byte) : Statement (.packet bytes) := by
  intro h
  refine of_words _ ?_ (by simpa using h)
  have hl : bytes.length ≤ 255 := h bytes rfl
  have hm : bytes.length % 256 = bytes.length := Nat.mod_eq_of_lt (by omega)
  simp [Instr.payload, Instr.op, Instr.aOperand, Op.words, hm]
  omega

theorem start : Statement .start := of_words _ rfl

theorem stop : Statement .stop := of_words _ rfl

theorem setOvrMask (mask : BitVec 64) : Statement (.setOvrMask mask) := of_words _ rfl

theorem setOvrDelta (sel : OvrSel) (delta : BitVec 32) : Statement (.setOvrDelta sel delta) := of_words _ rfl

theorem setBidiThreshold (value : BitVec 16) : Statement (.setBidiThreshold value) := of_words _ rfl

theorem rxInit (bidiEn : Bool) : Statement (.rxInit bidiEn) := of_words _ rfl

theorem rxTake : Statement .rxTake := of_words _ rfl

theorem bidiTake : Statement .bidiTake := of_words _ rfl

theorem readReg (n : Byte) : Statement (.readReg n) := of_words _ rfl

theorem readBuf (a : Byte) : Statement (.readBuf a) := of_words _ rfl

theorem txUpdate : Statement .txUpdate := of_words _ rfl

theorem rxCapture (ts : Word) : Statement (.rxCapture ts) := of_words _ rfl

theorem bidiByte (b : Byte) : Statement (.bidiByte b) := of_words _ rfl

theorem rxBidiFire : Statement .rxBidiFire := of_words _ rfl

end Sys2Proof.Laws.EncodeShape
end

