-- ==== Sys2Proof/Laws/Running.lean ====
section
/-! SUPPORT. A Running engine in a state of the invariant: where its cursor goes, that every slot of its frame has a
length, and the three cases of a step. -/

namespace Sys2Proof.Machine

/-- R152: the slot after a slot of the frame is a slot of the frame. -/
theorem nextSlot_ok {cfg : TxCfg} {n : Byte} {c c' : Cursor} (hn : n.toNat ≤ packetRegion) (hc : CursorOk cfg n c)
    (h : nextSlot cfg n c = some c') : CursorOk cfg n c' := by
  have hp : packetRegion = 32 := rfl
  obtain ⟨ph, j, k, hf⟩ := c
  cases ph <;> simp only [nextSlot] at h <;> simp only [CursorOk] at hc
  · cases hf <;> simp at h
    · subst h
      simp [CursorOk, hc]
    · split at h
      · cases h
        have := hc.2
        have := cfg.np.isLt
        simp only [CursorOk]
        rw [BitVec.toNat_add]
        simp
        omega
      · cases h
        simp [CursorOk]
  · cases hf <;> simp at h
    · subst h
      simpa [CursorOk] using hc
    · split at h
      · split at h <;> cases h
        simp [CursorOk, *]
      · rename_i h1
        split at h
        · cases h
          refine ⟨hc.1, ?_, fun e => absurd e h1⟩
          simp only
          rw [BitVec.toNat_add]
          simp
          omega
        · cases h
          refine ⟨?_, by simp, fun _ => rfl⟩
          have : j.toNat ≠ n.toNat := fun e => h1 (BitVec.eq_of_toNat_eq e)
          simp only
          rw [BitVec.toNat_add]
          simp
          omega
  · cases h; simp [CursorOk, hc]
  · cases h; simp [CursorOk, hc]
  · cases h; simp [CursorOk, hc]
  · simp at h

/-- R153: every slot of the frame has a length. -/
theorem dur_ok {s : State} {c : Cursor} (hn : s.tx.actLen.toNat ≤ packetRegion)
    (hc : CursorOk s.tx.cfg s.tx.actLen c) : ∃ r, dur s c = .ok r := by
  obtain ⟨ph, j, k, hf⟩ := c
  cases ph
  case data =>
    simp only [CursorOk] at hc
    have hb : ∃ b, bitval s j k = .ok b := by
      unfold bitval
      by_cases hk : k = 0
      · simp [hk]
      · have h1 : actBase = 32 := rfl
        have h2 : bufferTop = 0x8F := rfl
        have h3 : packetRegion = 32 := rfl
        have hm : mapped (actBase + j.toNat) = true := by
          simp only [mapped, decide_eq_true_eq]
          omega
        rw [if_neg hk, if_neg (by omega), if_pos hm]
        exact ⟨_, rfl⟩
    obtain ⟨b, hb⟩ := hb
    simp [dur, hb]
  all_goals exact ⟨_, rfl⟩

/-- R162: a Running engine in a state of the invariant emits its slot and wraps into Halting, wraps into the next frame,
or goes on in the frame; in each case the length of the slot it comes to is known from the state before. -/
theorem emitAndAdvance_cases {s : State} (hi : Inv s) (hr : s.tx.run = .running) :
    ∃ s' r, emitAndAdvance s = (s', .ok r) ∧
      ((nextSlot s.tx.cfg s.tx.actLen s.tx.cursor = none ∧ s.tx.stopReq = true ∧
          s' = wrapHalting (emit s.tx.cursor (loadActive s)) ∧ r = s.tx.cfg.bit1Ticks.toNat) ∨
       (nextSlot s.tx.cfg s.tx.actLen s.tx.cursor = none ∧ s.tx.stopReq = false ∧
          s' = setCursor .first (enterFrame (emit s.tx.cursor (loadActive s))) ∧ r = s.tx.cfg.bit1Ticks.toNat) ∨
       (∃ c, nextSlot s.tx.cfg s.tx.actLen s.tx.cursor = some c ∧ CursorOk s.tx.cfg s.tx.actLen c ∧
          s' = setCursor c (emit s.tx.cursor (loadActive s)) ∧ dur s c = .ok r)) := by
  have hlen : s.tx.actLen.toNat ≤ packetRegion := by
    have := hi.tx.actLen
    have hp := hi.params
    simp only [Params.valid, decide_eq_true_eq] at hp
    have : packetRegion = 32 := rfl
    omega
  rcases advance_cases (emit s.tx.cursor (loadActive s)) with ⟨h1, h2, h3⟩ | ⟨h1, h2, h3⟩ | ⟨c, h1, h3⟩
  · exact ⟨_, _, h3, .inl ⟨by simpa using h1, by simpa using h2, rfl, by simp⟩⟩
  · exact ⟨_, _, h3, .inr (.inl ⟨by simpa using h1, by simpa using h2, rfl, by simp⟩)⟩
  · have hn : nextSlot s.tx.cfg s.tx.actLen s.tx.cursor = some c := by simpa using h1
    have hok := nextSlot_ok hlen (hi.tx.cursor (by simp [hr])) hn
    obtain ⟨r, hd⟩ := dur_ok hlen hok
    refine ⟨_, r, ?_, .inr (.inr ⟨c, hn, hok, rfl, hd⟩)⟩
    unfold emitAndAdvance
    rw [h3, ← hd]
    congr 1
    apply dur_congr
    · simp
    · simp
    · simp
    · simp
    · intro i hlt
      apply emit_read (s := loadActive s) hi.mem
      simp only [actBase, brawBase, bsnapBase, bidiRegion, packetRegion] at *
      omega
    · intro hph hk
      obtain ⟨ph, j, k, hf⟩ := c
      simp only at hph hk ⊢
      subst hph
      simp only [CursorOk] at hok
      have : j.toNat ≠ s.tx.actLen.toNat := fun e => hk (hok.2.2 (BitVec.eq_of_toNat_eq e))
      omega

end Sys2Proof.Machine
end

