-- ==== Sys2Proof/Machine/Asm.lean ====
section
/-! DEFINITION. The assembler of 30_encoding.md: the textual form of one transaction a line (R106), the words it
assembles to (R107), and the pseudo-instructions (R108). No step of the block reads text. -/

namespace Sys2Proof.Machine

/-! ### Pseudo-instructions -/

/-- R108: the pseudo-instructions. -/
inductive Pseudo where
  | send (bytes : List Byte)
  | sendIdle
  | getOvrMask
  | getOvrDelta (sel : OvrSel)
  | setOvr (mask : BitVec 64) (p n : BitVec 32)
  | readFault
  deriving DecidableEq, Repr

/-- R50, R51: the register that holds a delta. -/
def deltaRegister : OvrSel → Byte
  | .p => 0x0A
  | .n => 0x0B

/-- R108: the transactions of a pseudo-instruction, each a step of its own. -/
def Pseudo.expand : Pseudo → List Instr
  | .send bytes => [.packet (bytes ++ [xorBytes bytes])]
  | .sendIdle => [.packet []]
  | .getOvrMask => [.readReg 0x08, .readReg 0x09]
  | .getOvrDelta sel => [.readReg (deltaRegister sel)]
  | .setOvr mask p n => [.setOvrDelta .p p, .setOvrDelta .n n, .setOvrMask mask]
  | .readFault => [.readReg 0x1F]

/-! ### Reading text -/

/-- The value of a digit in base 10 or 16. -/
def digit (base : Nat) (c : Char) : Option Nat :=
  let v :=
    if '0' ≤ c ∧ c ≤ '9' then c.toNat - '0'.toNat
    else if 'a' ≤ c ∧ c ≤ 'f' then c.toNat - 'a'.toNat + 10
    else if 'A' ≤ c ∧ c ≤ 'F' then c.toNat - 'A'.toNat + 10
    else base
  if v < base then some v else none

/-- The value of a row of digits, after those that make `acc`. -/
def digits (base : Nat) : (acc : Nat) → List Char → Option Nat
  | acc, [] => some acc
  | acc, c :: rest =>
    match digit base c with
    | some v => digits base (acc * base + v) rest
    | none => none

/-- R106: "numbers are decimal or `0x` hexadecimal". -/
def number : List Char → Option Nat
  | [] => none
  | '0' :: 'x' :: c :: rest => digits 16 0 (c :: rest)
  | c :: rest => digits 10 0 (c :: rest)

/-- An unsigned number of `w` bits; a number that does not fit is no operand. -/
def unsigned (w : Nat) (cs : List Char) : Option (BitVec w) :=
  match number cs with
  | some v => if v < 2 ^ w then some (BitVec.ofNat w v) else none
  | none => none

/-- R106: an `<i32>`, with a minus sign if it is negative. -/
def signed32 : List Char → Option (BitVec 32)
  | '-' :: rest =>
    match number rest with
    | some v => if v ≤ 2 ^ 31 then some (BitVec.ofInt 32 (-v)) else none
    | none => none
  | cs =>
    match number cs with
    | some v => if v < 2 ^ 31 then some (BitVec.ofNat 32 v) else none
    | none => none

/-- The text without leading spaces and tabs. -/
def skipBlanks : List Char → List Char
  | [] => []
  | c :: rest => if c = ' ' ∨ c = '\t' then skipBlanks rest else c :: rest

/-- The text without spaces and tabs at either end. -/
def trimBlanks (cs : List Char) : List Char := (skipBlanks (skipBlanks cs).reverse).reverse

/-- R106: "`;` starts a comment". -/
def dropComment (cs : List Char) : List Char := cs.takeWhile (· ≠ ';')

/-- The parts of a text between the separators `sep`, trimmed; `cur` is the part being read, backwards. -/
def splitParts (sep : Char) : (cur : List Char) → List Char → List (List Char)
  | cur, [] => [trimBlanks cur.reverse]
  | cur, c :: rest =>
    if c = sep then trimBlanks cur.reverse :: splitParts sep [] rest else splitParts sep (c :: cur) rest

/-- The operands of a line: none in a blank rest, else the parts between commas. -/
def operandParts (cs : List Char) : List (List Char) :=
  if trimBlanks cs = [] then [] else splitParts ',' [] cs

/-- The text after `key=`, if the operand begins so. -/
def keyed (key : String) (cs : List Char) : Option (List Char) :=
  match splitParts '=' [] cs with
  | [k, v] => if k = key.toList then some v else none
  | _ => none

/-- All the results, if there are all. -/
def sequenceOptions {α : Type} : List (Option α) → Option (List α)
  | [] => some []
  | none :: _ => none
  | some x :: rest => (sequenceOptions rest).map (x :: ·)

/-- A list of bytes. -/
def byteOperands (ops : List (List Char)) : Option (List Byte) := sequenceOptions (ops.map (unsigned 8))

/-- R106: `P|N`. -/
def selOperand (cs : List Char) : Option OvrSel :=
  if cs = "P".toList then some .p else if cs = "N".toList then some .n else none

/-- Whether the optional flags stand there, in the order of R106; `none` if something else does. -/
def flagOperands : (names : List String) → List (List Char) → Option (List Bool)
  | [], [] => some []
  | [], _ :: _ => none
  | _ :: names, [] => (flagOperands names []).map (false :: ·)
  | name :: names, f :: fs =>
    if f = name.toList then (flagOperands names fs).map (true :: ·)
    else (flagOperands names (f :: fs)).map (false :: ·)

/-- R39: the register names. -/
def registerNames : List (String × Byte) :=
  [("TX_CTRL", 0x00), ("TX_BIT_US", 0x01), ("TX_BIT1_TICKS", 0x02), ("TX_BIT0_TICKS", 0x03)] ++
  [("TX_CURSOR", 0x04), ("TX_ARR_ACTIVE", 0x05), ("TX_ARR_PRELOAD", 0x06), ("TX_OUT", 0x07)] ++
  [("OVR_MASK_LO", 0x08), ("OVR_MASK_HI", 0x09), ("OVR_DELTA_P", 0x0A), ("OVR_DELTA_N", 0x0B)] ++
  [("BIDI_THRESHOLD", 0x0C), ("BIDI_STATUS", 0x0D), ("DAC_OUT", 0x0E), ("RX_CTRL", 0x10)] ++
  [("RX_ACC", 0x11), ("RX_LAST_TS", 0x12), ("RX_OS_REF", 0x13), ("FAULT", 0x1F)]

/-- R106: a register name or number. -/
def registerOperand (cs : List Char) : Option Byte :=
  match registerNames.find? fun e => decide (e.1.toList = cs) with
  | some e => some e.2
  | none => unsigned 8 cs

/-! ### One line -/

/-- What a mnemonic and its operands say: the transactions, or `none` if R106 and R108 have no such line. -/
def lineInstrs (mnemonic : List Char) (ops : List (List Char)) : Option (List Instr) :=
  if mnemonic = "INIT_TX".toList then
    match ops with
    | np :: b1 :: b0 :: flags =>
      match (keyed "np" np).bind (unsigned 8), (keyed "bit1" b1).bind (unsigned 16),
        (keyed "bit0" b0).bind (unsigned 16), flagOperands ["bidi", "invert", "trig"] flags with
      | some np, some b1, some b0, some [bidi, invert, trig] => some [.initTx np bidi invert trig b1 b0]
      | _, _, _, _ => none
    | _ => none
  else if mnemonic = "PACKET".toList then
    if ops.length ≤ 255 then (byteOperands ops).map fun bs => [.packet bs] else none
  else if mnemonic = "START".toList ∧ ops = [] then some [.start]
  else if mnemonic = "STOP".toList ∧ ops = [] then some [.stop]
  else if mnemonic = "SET_OVR_MASK".toList then
    match ops with
    | [m] => (unsigned 64 m).map fun m => [.setOvrMask m]
    | _ => none
  else if mnemonic = "SET_OVR_DELTA".toList then
    match ops with
    | [sel, d] =>
      match selOperand sel, signed32 d with
      | some sel, some d => some [.setOvrDelta sel d]
      | _, _ => none
    | _ => none
  else if mnemonic = "SET_BIDI_THRESHOLD".toList then
    match ops with
    | [v] => (unsigned 16 v).map fun v => [.setBidiThreshold v]
    | _ => none
  else if mnemonic = "RX_INIT".toList then
    match flagOperands ["bidi"] ops with
    | some [bidiEn] => some [.rxInit bidiEn]
    | _ => none
  else if mnemonic = "RX_TAKE".toList ∧ ops = [] then some [.rxTake]
  else if mnemonic = "BIDI_TAKE".toList ∧ ops = [] then some [.bidiTake]
  else if mnemonic = "READ_REG".toList then
    match ops with
    | [n] => (registerOperand n).map fun n => [.readReg n]
    | _ => none
  else if mnemonic = "READ_BUF".toList then
    match ops with
    | [a] => (unsigned 8 a).map fun a => [.readBuf a]
    | _ => none
  else if mnemonic = "@TX_UPDATE".toList ∧ ops = [] then some [.txUpdate]
  else if mnemonic = "@RX_CAPTURE".toList then
    match ops with
    | [ts] => (unsigned 32 ts).map fun ts => [.rxCapture ts]
    | _ => none
  else if mnemonic = "@BIDI_BYTE".toList then
    match ops with
    | [b] => (unsigned 8 b).map fun b => [.bidiByte b]
    | _ => none
  else if mnemonic = "@RX_BIDI_FIRE".toList ∧ ops = [] then some [.rxBidiFire]
  else if mnemonic = "SEND".toList then
    if 1 ≤ ops.length ∧ ops.length ≤ 254 then (byteOperands ops).map fun bs => (Pseudo.send bs).expand else none
  else if mnemonic = "SEND_IDLE".toList ∧ ops = [] then some Pseudo.sendIdle.expand
  else if mnemonic = "GET_OVR_MASK".toList ∧ ops = [] then some Pseudo.getOvrMask.expand
  else if mnemonic = "GET_OVR_DELTA".toList then
    match ops with
    | [sel] => (selOperand sel).map fun sel => (Pseudo.getOvrDelta sel).expand
    | _ => none
  else if mnemonic = "SET_OVR".toList then
    match ops with
    | [m, p, n] =>
      match (keyed "mask" m).bind (unsigned 64), (keyed "p" p).bind signed32, (keyed "n" n).bind signed32 with
      | some m, some p, some n => some (Pseudo.setOvr m p n).expand
      | _, _, _ => none
    | _ => none
  else if mnemonic = "READ_FAULT".toList ∧ ops = [] then some Pseudo.readFault.expand
  else none

/-- R106, R108: the transactions of one line of text; none for a blank or comment line; `none` if the line is not
one of the forms. -/
def parseLine (line : String) : Option (List Instr) :=
  let text := trimBlanks (dropComment line.toList)
  if text = [] then some []
  else
    let mnemonic := text.takeWhile fun c => decide (c ≠ ' ' ∧ c ≠ '\t')
    lineInstrs mnemonic (operandParts (text.drop mnemonic.length))

/-- R107: the words of one line, for an instance: an operand too wide for the instance's field is not assembled. -/
def assembleLine (p : Params) (line : String) : Option (List (List Word)) :=
  match parseLine line with
  | some is => if is.all (Instr.wf p) then some (is.map encode) else none
  | none => none

end Sys2Proof.Machine
end

