-- ==== Sys2Proof/Tests/Slice0.lean ====
section
/-! SUPPORT. Tests of one step each, with expected results worked out in spec/95_test_vectors.md or in the examples
of the rules, and a witness for the hypotheses of each statement of Certificates/Slice0/Obligations.lean. -/

namespace Sys2Proof.Tests

open Sys2Proof Sys2Proof.Machine

/-! ### Small states -/

/-- Whether an operation answers a next state for which `f` holds. -/
def after (i : Instr) (s : State) (f : State → Bool) : Bool :=
  match exec i s with
  | .next t => f t
  | .fault _ => false
  | .refused _ => false

/-- Whether a step answers a next state for which `f` holds. -/
def afterStep (s : State) (f : State → Bool) : Bool :=
  match step s with
  | .next t => f t
  | .fault _ => false
  | .refused _ => false

/-- The response words of READ_REG. -/
def regIs (n : Byte) (w : Word) (s : State) : Bool := decide (reg s n = some w)

/-- 95_test_vectors.md "CFG58", with the flags free. -/
def cfg58 (bidi trig : Bool) : TxCfg where
  np := 14
  bit1Us := 58
  bit0Us := 100
  bit1Ticks := 58
  bit0Ticks := 100
  bidi := bidi
  invert := false
  trig := trig

/-- The bytes 03 81 82 at an address. -/
def cells038182 (base : Nat) : List Host.Cell := [(base, 0x03), (base + 1, 0x81), (base + 2, 0x82)]

/-- Stopped after CFG58 with a packet 03 81 82 in the mailbox. -/
def stopped : State :=
  { State.reset with
    tx := { Tx.reset with run := .stopped, cfg := cfg58 true true, mboxFull := true, mboxLen := 3 }
    mem := { cells := cells038182 0x00 } }

/-- A transmit engine that is on, sending 03 81 82. -/
def onAt (run : RunState) (stopReq : Bool) (c : Cursor) (pins : Pins) : State :=
  { State.reset with
    tx :=
      { run := run, cfg := cfg58 true true, stopReq := stopReq, cursor := c, pol := c.half
        mboxFull := false, mboxLen := 0, actLen := 3, arrActive := 58, arrPreload := 58, pins := pins }
    bidi := { State.reset.bidi with threshold := 0x123 }
    mem := { cells := cells038182 0x20 } }

/-- The pins after a half at level 1 (`p`) or 0 has been emitted, outside a cutout. -/
def driven (p : Bool) : Pins := { Pins.off with trackP := p, trackN := !p }

/-- The pins in a cutout. -/
def cutoutPins (ch : Channel) : Pins :=
  { Pins.off with bidiEn := true, brakeEn := true, dacEn := true, rcCh := ch }

/-- Running at the first slot. -/
def atFirst : State := onAt .running false .first .off

/-- Running at a Data slot. -/
def atData (j k : Byte) (half : Bool) : State := onAt .running false ⟨.data, j, k, half⟩ (driven half)

/-- Running at the last slot before a wrap without a cutout; the emitted half is the end bit's second. -/
def atEndBit : State := onAt .running false ⟨.data, 3, 0, true⟩ (driven true)

/-- Running at a cutout slot. -/
def atCutout (stopReq : Bool) (ph : Phase) (pins : Pins) : State := onAt .running stopReq ⟨ph, 0, 0, false⟩ pins

def atStart : State := atCutout false .bidiStart (driven false)
def atCh1 : State := atCutout false .bidiCh1 (cutoutPins .none)
def atCh2 : State := atCutout false .bidiCh2 (cutoutPins .ch1)
def atEnd : State := atCutout false .bidiEnd (cutoutPins .ch2)
def atEndStop : State := atCutout true .bidiEnd (cutoutPins .ch2)

/-- Halting. -/
def halting : State := onAt .halting true .first (driven false)

/-- A receiver that has seen an edge at 1000, with a receive state given by `f`, and the bytes of RXB. -/
def receiver (rxb : List Host.Cell) (f : Rx → Rx) : State :=
  { State.reset with rx := f { Rx.reset with tsValid := true, lastTs := 1000 }, mem := { cells := rxb } }

/-- In Hunt with `h` ONE halves counted. -/
def hunting (h : Byte) : State := receiver [] fun r => { r with h := h }

/-- In Start2. -/
def inStart2 : State := receiver [] fun r => { r with st := .start2, h := 20 }

/-- In Data with no byte stored. -/
def inData (first : FirstHalf) (bitcnt : BitVec 4) (acc : Byte) : State :=
  receiver [] fun r => { r with st := .data, h := 20, first := first, bitcnt := bitcnt, acc := acc }

/-- In Data with 03 81 82 stored, after the last bit of 0x82, `bidi_en = 1`. -/
def packetDone : State :=
  receiver (cells038182 0x40) fun r =>
    { r with st := .data, h := 20, bitcnt := 8, acc := 0x82, n := 3, bidiEn := true }

/-- In Data with RX_CAPACITY bytes 0x01 stored and seven bits of the next byte. -/
def full : State :=
  receiver ((List.range 18).map fun i => (0x40 + i, 0x01)) fun r =>
    { r with st := .data, h := 20, first := .zero, bitcnt := 7, n := 18 }

/-- A packet 03 81 82 is ready, the one-shot armed as `os`, the window as `win`. -/
def readyPacket (os : OneShot) (win : Channel) : State :=
  receiver (cells038182 0x60) fun r =>
    { r with ready := true, readyLen := 3, bidiEn := true, os := os, osRef := 7636, win := win }

/-- Words on a port, which has the turn. -/
def given (port : Port) (ws : List Word) (s : State) : State := presented port ws s

/-! ### WellFormed refuses ill-formed terms -/

theorem test_wf_packet : ∃ bs : List Byte, bs.length = 256 ∧ (Instr.packet bs).wf .reference = false := by
  obtain ⟨bs, h⟩ : ∃ bs : List Byte, bs.length = 256 := ⟨_, List.length_replicate (a := 0)⟩
  exact ⟨bs, h, decide_eq_false (by omega)⟩
theorem test_wf_threshold : (Instr.setBidiThreshold 0x1000).wf .reference = false := by decide
theorem test_wf_timestamp :
    (Instr.rxCapture 0x10000).wf { Params.reference with capBits := 16 } = false := by decide
theorem test_wf_bounds :
    (∃ bs : List Byte, bs.length = 255 ∧ (Instr.packet bs).wf .reference = true) ∧
    (Instr.setBidiThreshold 0xFFF).wf .reference = true ∧
    (Instr.rxCapture 0xFFFF).wf { Params.reference with capBits := 16 } = true := by
  obtain ⟨bs, h⟩ : ∃ bs : List Byte, bs.length = 255 := ⟨_, List.length_replicate (a := 0)⟩
  exact ⟨⟨bs, h, decide_eq_true (by omega)⟩, by decide, by decide⟩

/-- R5: a parameter set that breaks a constraint is refused. -/
theorem test_invalid_params_refused :
    (match step { State.reset with params := { Params.reference with capBits := 24 } } with
      | .refused .invalidParams => true
      | _ => false) = true := by decide

theorem test_reference_valid : Params.reference.valid = true := by decide

/-! ### Decoding: words written out from R91-R101 (B in bits 31..16, A in bits 15..8, OPC in bits 7..0) -/

theorem test_decode_initTx :
    decode .reference .host
      [0b00000000000001010000111000000001, 0b00000000011001000000000000111010] =
      .cmd (.initTx 14 true false true 58 100) 2 := by decide
theorem test_decode_initTx_invert :
    decode .reference .host [0x00020E01, 0x0064003A] = .cmd (.initTx 14 false true false 58 100) 2 := by decide
theorem test_decode_packet :
    decode .reference .host
      [0b00000000000000000000010100000010, 0b00000100000000110000001000000001, 0b00000000000000000000000000000101] =
      .cmd (.packet [1, 2, 3, 4, 5]) 3 := by decide
theorem test_decode_packet_empty : decode .reference .host [0x00000002] = .cmd (.packet []) 1 := by decide
theorem test_decode_start :
    decode .reference .host [0b00000000000000000000000000000011] = .cmd .start 1 := by decide
theorem test_decode_stop :
    decode .reference .host [0b00000000000000000000000000000100] = .cmd .stop 1 := by decide
theorem test_decode_setOvrMask :
    decode .reference .host
      [0b00000000000000000000000000000101, 0b00000000000000000000000010000101, 0b10000000000000000000000000000000] =
      .cmd (.setOvrMask 0x8000000000000085) 3 := by decide
theorem test_decode_setOvrDelta_n :
    decode .reference .host [0b00000000000000000000000100000110, 0b11111111111111111111111111110110] =
      .cmd (.setOvrDelta .n (-10)) 2 := by decide
theorem test_decode_setOvrDelta_p :
    decode .reference .host [0x00000006, 20] = .cmd (.setOvrDelta .p 20) 2 := by decide
theorem test_decode_setBidiThreshold :
    decode .reference .host [0b00000001001000110000000000000111] = .cmd (.setBidiThreshold 0x123) 1 := by decide
theorem test_decode_rxInit :
    decode .reference .host [0b00000000000000000000000100001000] = .cmd (.rxInit true) 1 := by decide
theorem test_decode_rxTake :
    decode .reference .host [0b00000000000000000000000000001001] = .cmd .rxTake 1 := by decide
theorem test_decode_bidiTake :
    decode .reference .host [0b00000000000000000000000000001010] = .cmd .bidiTake 1 := by decide
theorem test_decode_readReg :
    decode .reference .host [0b00000000000000000001111100001011] = .cmd (.readReg 0x1F) 1 := by decide
theorem test_decode_readBuf :
    decode .reference .host [0b00000000000000000010000000001100] = .cmd (.readBuf 0x20) 1 := by decide
theorem test_decode_txUpdate :
    decode .reference .event [0b00000000000000000000000010000000] = .cmd .txUpdate 1 := by decide
theorem test_decode_rxCapture :
    decode .reference .event [0b00000000000000000000000010000001, 0b00000000000000000000001111101000] =
      .cmd (.rxCapture 1000) 2 := by decide
theorem test_decode_bidiByte :
    decode .reference .event [0b00000000000000001001100110000010] = .cmd (.bidiByte 0x99) 1 := by decide
theorem test_decode_rxBidiFire :
    decode .reference .event [0b00000000000000000000000010000011] = .cmd .rxBidiFire 1 := by decide

/-- 95_test_vectors.md section 2.1: the rows that fault in decoding, with the words they take. -/
theorem test_decode_reserved :
    decode .reference .host [0x00080E01, 0x0064003A] = .fieldInvalid 2 ∧
    decode .reference .host [0x00000302, 0x01828103] = .fieldInvalid 2 ∧
    decode .reference .host [0x00000206, 0x00000005] = .fieldInvalid 2 ∧
    decode .reference .host [0x10000007] = .fieldInvalid 1 ∧
    decode .reference .host [0x00000208] = .fieldInvalid 1 ∧
    decode .reference .host [0x00000103] = .fieldInvalid 1 ∧
    decode { Params.reference with capBits := 16 } .event [0x81, 0x00010000] = .fieldInvalid 2 := by decide
theorem test_decode_illegal :
    decode .reference .host [0x00000000] = .illegalOpcode ∧ decode .reference .host [0x00000080] = .illegalOpcode ∧
    decode .reference .event [0x00000003] = .illegalOpcode ∧ decode .reference .host [0x0000000D] = .illegalOpcode ∧
    decode .reference .event [0x00000084] = .illegalOpcode := by decide

/-- The whole-word form that the host uses. -/
theorem test_table_word :
    decodeTableWord 64 0x0064003A00000E01 = some (.initTx 14 false false false 58 100) ∧
    decodeTableWord 32 0x00000080 = some .txUpdate ∧ decodeTableWord 32 0x00000302 = some (.packet [0, 0, 0]) ∧
    decodeTableWord 32 0x00000000 = none := by decide
theorem test_withFetchWord :
    afterStep (State.reset.withFetchWord 64 0x0064003A00000E01) (regIs 0x01 0x0064003A) = true ∧
    afterStep (State.reset.withFetchWord 32 0x00000083) (fun t => decide (t.out.kind = .noStep)) = true := by decide

/-! ### One step per operation -/

theorem test_initTx :
    after (.initTx 14 false false false 64 90) .reset (regIs 0x01 0x005A0040) = true ∧
    after (.initTx 255 false false false 58 65535) .reset (regIs 0x03 0x0000FFFF) = true := by decide
theorem test_initTx_faults :
    after (.initTx 13 false false false 58 100) .reset (fun t => regIs 0x1F 5 t && regIs 0x00 0 t) = true ∧
    after (.initTx 14 false false false 65 100) .reset (regIs 0x1F 5) = true ∧
    after (.initTx 14 false false false 58 89) .reset (regIs 0x1F 5) = true ∧
    after (.initTx 2 false false false 58 100) atFirst (regIs 0x1F 4) = true := by decide
theorem test_packet :
    after (.packet (List.replicate 18 1)) .reset (regIs 0x00 0x00120040) = true ∧
    after (.packet [0x03, 0x81, 0x82]) .reset (fun t => decide (t.mem.cells = cells038182 0)) = true := by decide
theorem test_packet_length :
    after (.packet (List.replicate 19 1)) .reset (fun t => regIs 0x1F 6 t && regIs 0x00 0 t) = true := by decide
theorem test_start :
    after .start { stopped with tx := { stopped.tx with cfg := cfg58 false false } }
      (fun t => regIs 0x00 0x00000E02 t && regIs 0x04 0x03000000 t && regIs 0x05 58 t && regIs 0x06 58 t &&
        decide (bufferByte t 0x21 = some 0x81)) = true := by decide
theorem test_start_faults :
    after .start .reset (regIs 0x1F 3) = true ∧ after .start atFirst (regIs 0x1F 4) = true := by decide
theorem test_stop :
    after .stop atFirst (fun t => t.tx.stopReq) = true ∧ after .stop .reset (fun t => decide (t = finish .reset)) = true := by
  decide
theorem test_setOvrMask :
    after (.setOvrMask 0x85) .reset (fun t => regIs 0x08 0x85 t && regIs 0x09 0 t) = true := by decide
theorem test_setOvrDelta :
    after (.setOvrDelta .p 20) .reset (regIs 0x0A 0x00000014) = true ∧
    after (.setOvrDelta .n (-10)) .reset (regIs 0x0B 0xFFFFFFF6) = true := by decide
theorem test_setBidiThreshold :
    after (.setBidiThreshold 0x123) .reset (fun t => regIs 0x0C 0x123 t && regIs 0x0E 0 t) = true ∧
    after (.setBidiThreshold 0x123) atCh1 (regIs 0x0E 0x123) = true := by decide
theorem test_rxInit : after (.rxInit true) packetDone (regIs 0x10 0x00000040) = true := by decide
theorem test_rxTake :
    after .rxTake (readyPacket .idle .ch2) (fun t => decide (t.out.resp = [0x00000301, 0x00828103])) = true ∧
    after .rxTake .reset (fun t => decide (t.out.resp = [0])) = true := by decide
theorem test_bidiTake :
    after .bidiTake
      { State.reset with
        bidi := { State.reset.bidi with sn1 := 2, sn2 := 2, ready := true }
        mem := { cells := [(0x88, 0x99), (0x89, 0xA5), (0x8A, 0xA5), (0x8B, 0x99)] } }
      (fun t => decide (t.out.resp = [0x00002201, 0x99A5A599, 0x00000000])) = true ∧
    after .bidiTake .reset (fun t => decide (t.out.resp = [0, 0, 0])) = true := by decide
theorem test_readReg :
    after (.readReg 0x00) stopped (fun t => decide (t.out.resp = [0x00030E69])) = true ∧
    after (.readReg 0x0F) .reset (regIs 0x1F 2) = true := by decide
theorem test_readBuf :
    after (.readBuf 0x8F) .reset (fun t => decide (t.out.resp = [0])) = true ∧
    after (.readBuf 0x90) .reset (regIs 0x1F 2) = true := by decide

/-- 95_test_vectors.md section 2.3: u1, with `trig`. -/
theorem test_txUpdate_first :
    after .txUpdate atFirst (fun t => regIs 0x07 0x00000021 t && decide (t.out.reload = some 58)) = true := by decide
/-- 95_test_vectors.md section 2.3: u46 returns the separator's 100. -/
theorem test_txUpdate_separator :
    after .txUpdate (atData 0 8 true)
      (fun t => decide (t.tx.cursor = ⟨.data, 1, 0, false⟩ ∧ t.out.reload = some 100 ∧ t.tx.pins.trackP = false)) =
      true := by decide

/-- 95_test_vectors.md section 2.4, Hunt counting. -/
theorem test_rxCapture_hunt :
    after (.rxCapture 1058) (hunting 19) (fun t => decide (t.rx.h = 20)) = true ∧
    after (.rxCapture 1100) (hunting 20) (fun t => decide (t.rx.st = .start2)) = true ∧
    after (.rxCapture 1100) (hunting 19) (fun t => decide (t.rx.st = .hunt ∧ t.rx.h = 0)) = true := by decide
/-- 95_test_vectors.md program 2: the capture that accepts 03 81 82. -/
theorem test_rxCapture_accept :
    after (.rxCapture 1058) packetDone
      (fun t => decide (t.rx.ready = true ∧ t.rx.readyLen = 3 ∧ t.rx.os = .armedCh1 ∧ t.rx.osRef = 1116 ∧
        t.mem.cells = cells038182 0x60)) = true := by decide

/-- 95_test_vectors.md program 3: bytes in channel 1, and the third is dropped. -/
theorem test_bidiByte :
    after (.bidiByte 0xA5) { atCh2 with bidi := { atCh2.bidi with n1 := 1 } }
      (fun t => decide (t.bidi.n1 = 2 ∧ t.mem.read 0x81 = 0xA5)) = true ∧
    after (.bidiByte 0x0F) { atCh2 with bidi := { atCh2.bidi with n1 := 2 } }
      (fun t => decide (t.bidi.n1 = 2 ∧ t.mem.read 0x82 = 0)) = true := by decide
theorem test_rxBidiFire :
    after .rxBidiFire (readyPacket .armedCh1 .none) (fun t => decide (t.rx.os = .armedCh2 ∧ t.rx.win = .ch1)) = true ∧
    after .rxBidiFire (readyPacket .armedCh2 .ch1) (fun t => decide (t.rx.os = .idle ∧ t.rx.win = .ch2)) = true := by
  decide

/-! ### The cutout, the override and the decoders -/

/-- 95_test_vectors.md program 3: u85, u86, u87 and u88. -/
theorem test_cutout :
    after .txUpdate atStart (fun t => regIs 0x07 0x1C t && regIs 0x0E 0x123 t && decide (t.out.reload = some 167)) = true ∧
    after .txUpdate atCh1 (fun t => regIs 0x07 0x5C t && decide (t.out.reload = some 295)) = true ∧
    after .txUpdate atCh2 (fun t => regIs 0x07 0x9C t && decide (t.out.reload = some 58)) = true ∧
    after .txUpdate atEnd (fun t => regIs 0x07 0x02 t && regIs 0x0E 0 t && irqBidi t) = true := by decide

/-- 95_test_vectors.md section 2.6: position 0 with dP = 20 and dN = -10, and position 9 with dP = -100. -/
theorem test_override :
    after .txUpdate
      { onAt .running false ⟨.preamble, 0, 13, true⟩ (driven true) with ovr := { mask := 0x85, dP := 20, dN := -10 } }
      (fun t => decide (t.out.reload = some 120)) = true ∧
    after .txUpdate { atData 0 0 false with ovr := { mask := 0x85, dP := 20, dN := -10 } }
      (fun t => decide (t.out.reload = some 90)) = true ∧
    after .txUpdate { atData 0 8 true with ovr := { mask := 0x200, dP := -100, dN := 0 } }
      (fun t => regIs 0x1F 7 t && regIs 0x07 0 t && decide (t.tx.run = .stopped)) = true := by decide

theorem test_classify :
    [0, 51, 52, 58, 64, 65, 89, 90, 100, 10000, 10001].map (classify .reference) =
      [.invalid, .invalid, .one, .one, .one, .invalid, .invalid, .zero, .zero, .zero, .invalid] := by decide

theorem test_rcDecode :
    [0xAC, 0x33, 0x99, 0xA5, 0x0F, 0xF0, 0x3C, 0xE1, 0x87, 0xC3, 0x00, 0xFF].map (rcDecode .reference) =
      [.data 0x00, .data 0x3F, .data 0x08, .data 0x03, .ack, .ack, .nack, .busy, .invalid, .invalid, .invalid,
        .invalid] := by decide

theorem test_rcTable_distinct : rcDataBytes.length = 64 ∧ rcDataBytes.Nodup := by decide

theorem test_dissect1 :
    dissect1 .reference [0x99, 0xA5] 2 = [.dg 1 2 3] ∧ dissect1 .reference [0xF0, 0x3C] 2 = [.special .ack, .special .nack] ∧
    dissect1 .reference [0x99, 0x00] 2 = [] ∧ dissect1 .reference [0x0F, 0x00] 1 = [.special .ack] := by decide

theorem test_dissect2 :
    dissect2 .reference [0xB1, 0x99, 0xA5] 3 = [.dg 2 3 0x3203] ∧
    dissect2 .reference [0x4E, 0xAC, 0xAC, 0xAC, 0xAC, 0xAC] 6 = [.dg 2 8 0x40000000] ∧
    dissect2 .reference [0xAA, 0xA5, 0x99] 3 = [.dg 2 0 0x43] ∧ dissect2 .reference [0xA5, 0x00] 2 = [] ∧
    dissect2 .reference [0xE8, 0x99, 0xA5] 3 = [] := by decide

theorem test_oneShotDue :
    oneShotDue (readyPacket .armedCh1 .none) = some 7716 ∧ oneShotDue (readyPacket .armedCh2 .ch1) = some 7829 := by
  decide

/-! ### The assembler: the lines of 95_test_vectors.md and the examples of R94-R101, R108 -/

theorem test_asm :
    assembleLine .reference "INIT_TX np=14, bit1=58, bit0=100, bidi   ; cutout" = some [[0x00010E01, 0x0064003A]] ∧
    assembleLine .reference "PACKET 0x03, 0x81, 0x82" = some [[0x00000302, 0x00828103]] ∧
    assembleLine .reference "SET_OVR_DELTA N, -10" = some [[0x00000106, 0xFFFFFFF6]] ∧
    assembleLine .reference "READ_REG FAULT" = some [[0x00001F0B]] ∧
    assembleLine .reference "@RX_CAPTURE 1000" = some [[0x00000081, 0x000003E8]] := by decide
theorem test_asm_pseudo :
    assembleLine .reference "SEND 0x03, 0x81" = some [[0x00000302, 0x00828103]] ∧
    assembleLine .reference "SET_OVR mask=0x85, p=20, n=-10" =
      some [[0x00000006, 20], [0x00000106, 0xFFFFFFF6], [0x00000005, 0x85, 0]] ∧
    assembleLine .reference "GET_OVR_MASK" = some [[0x0000080B], [0x0000090B]] ∧
    assembleLine .reference "TX_UPDATE" = none := by decide

/-! ### States that meet the invariant -/

theorem cfg58_ok (bidi trig : Bool) : CfgOk .reference (cfg58 bidi trig) where
  npMin := by simp only [cfg58]; decide
  bit1Min := by simp only [cfg58]; decide
  bit1Max := by simp only [cfg58]; decide
  bit0Min := by simp only [cfg58]; decide
  bit1Ticks := by simp only [cfg58]; decide
  bit0Ticks := by simp only [cfg58]; decide
  bit1Range := by simp only [cfg58]; decide
  bit0Range := by simp only [cfg58]; decide
  cutout := fun _ => by decide

theorem rxReset_ok : RxOk .reference Rx.reset := by constructor <;> decide

theorem test_inv_reset : Inv .reset where
  params := by decide
  mem := by decide
  tails := by constructor <;> decide
  tx := by
    constructor <;> first | decide | exact fun h => absurd h (by decide)
  bidi := by constructor <;> decide
  rx := rxReset_ok
  checksum := fun h => absurd rfl h
  fault := by decide

theorem test_inv_stopped : Inv stopped where
  params := by decide
  mem := by decide
  tails := by constructor <;> decide
  tx :=
    { uninit := by decide
      cfg := fun _ => cfg58_ok true true
      cursor := fun _ => by show _ ∧ _; decide
      pol := by decide
      mboxLen := by decide
      mboxEmpty := by decide
      actLen := by decide
      active := fun h => absurd h (by decide)
      arrActive := fun h => absurd h (by decide)
      arrPreload := fun h => absurd h (by decide)
      stopReq := by decide
      halting := by decide
      off := fun _ => by decide
      pins := fun h => absurd h (by decide) }
  bidi := by constructor <;> decide
  rx := rxReset_ok
  checksum := fun h => absurd rfl h
  fault := by decide

/-- An engine that is on meets the invariant when its cursor and its pins do. -/
theorem inv_onAt (run : RunState) (stopReq : Bool) (c : Cursor) (pins : Pins)
    (hr : run = .running ∨ (run = .halting ∧ stopReq = true ∧ c = .first))
    (hc : CursorOk (cfg58 true true) 3 c) (hp : PinsOk (cfg58 true true) c c.half pins) :
    Inv (onAt run stopReq c pins) where
  params := test_reference_valid
  mem := by show Memory.wf { cells := cells038182 0x20 } = true; decide
  tails := by
    constructor <;> simp only [onAt]
    all_goals decide
  tx :=
    { uninit := by rcases hr with rfl | ⟨rfl, -, -⟩ <;> exact fun h => absurd h (by simp [onAt])
      cfg := fun _ => cfg58_ok true true
      cursor := fun _ => hc
      pol := rfl
      mboxLen := Nat.zero_le _
      mboxEmpty := fun _ => rfl
      actLen := by simp only [onAt]; decide
      active := fun _ => by simp only [onAt]; decide
      arrActive := fun _ => by simp only [onAt]; decide
      arrPreload := fun _ => by simp only [onAt]; decide
      stopReq := fun _ => hr.imp id fun h => h.1
      halting := fun h => by
        rcases hr with rfl | ⟨-, h1, h2⟩
        · exact absurd h (by simp [onAt])
        · exact ⟨h1, h2⟩
      off := fun h => absurd (hr.imp id fun h => h.1) h
      pins := fun _ => hp }
  bidi := by constructor <;> simp only [onAt] <;> decide
  rx := rxReset_ok
  checksum := fun h => absurd rfl h
  fault := by simp only [onAt]; decide

theorem test_inv_atFirst : Inv atFirst :=
  inv_onAt _ _ _ _ (.inl rfl) (by show _ ∧ _; decide) (by constructor <;> decide)
theorem test_inv_halting : Inv halting :=
  inv_onAt _ _ _ _ (.inr ⟨rfl, rfl, rfl⟩) (by show _ ∧ _; decide) (by constructor <;> decide)
theorem test_inv_startBit : Inv (atData 0 0 false) :=
  inv_onAt _ _ _ _ (.inl rfl) (by show _ ∧ _; decide) (by constructor <;> decide)
theorem test_inv_lastDataBit : Inv (atData 2 8 true) :=
  inv_onAt _ _ _ _ (.inl rfl) (by show _ ∧ _; decide) (by constructor <;> decide)
theorem test_inv_separator : Inv (atData 0 8 true) :=
  inv_onAt _ _ _ _ (.inl rfl) (by show _ ∧ _; decide) (by constructor <;> decide)
theorem test_inv_endBit : Inv atEndBit :=
  inv_onAt _ _ _ _ (.inl rfl) (by show _ ∧ _; decide) (by constructor <;> decide)
theorem test_inv_atStart : Inv atStart :=
  inv_onAt _ _ _ _ (.inl rfl) (by show _ ∧ _; decide) (by constructor <;> decide)
theorem test_inv_atCh1 : Inv atCh1 :=
  inv_onAt _ _ _ _ (.inl rfl) (by show _ ∧ _; decide) (by constructor <;> decide)
theorem test_inv_atCh2 : Inv atCh2 :=
  inv_onAt _ _ _ _ (.inl rfl) (by show _ ∧ _; decide) (by constructor <;> decide)
theorem test_inv_atEnd : Inv atEnd :=
  inv_onAt _ _ _ _ (.inl rfl) (by show _ ∧ _; decide) (by constructor <;> decide)
theorem test_inv_atEndStop : Inv atEndStop :=
  inv_onAt _ _ _ _ (.inl rfl) (by show _ ∧ _; decide) (by constructor <;> decide)

/-- A change of the override values keeps the invariant. -/
theorem inv_ovr {s : State} (h : Inv s) (o : Ovr) : Inv { s with ovr := o } :=
  ⟨h.params, h.mem, ⟨h.tails.mbox, h.tails.act, h.tails.rxb, h.tails.rxr, h.tails.braw1, h.tails.braw2,
    h.tails.bsnap1, h.tails.bsnap2⟩, h.tx, h.bidi, h.rx, h.checksum, h.fault⟩

/-- A receiver in reset otherwise meets the invariant when its own parts do. -/
theorem inv_receiver (rxb : List Host.Cell) (f : Rx → Rx) (hm : Memory.wf { cells := rxb } = true)
    (ht : TailsZero (receiver rxb f)) (hr : RxOk .reference (receiver rxb f).rx)
    (hc : ReadyChecksum (receiver rxb f)) : Inv (receiver rxb f) :=
  ⟨test_inv_reset.params, hm, ht, test_inv_reset.tx, test_inv_reset.bidi, hr, hc, test_inv_reset.fault⟩

theorem test_inv_hunting : Inv (hunting 0) ∧ Inv (hunting 19) ∧ Inv (hunting 20) := by
  refine ⟨?_, ?_, ?_⟩ <;> refine inv_receiver _ _ (by decide) (by constructor <;> decide) (by constructor <;> decide) ?_ <;>
    exact fun h => absurd rfl h
theorem test_inv_inStart2 : Inv inStart2 :=
  inv_receiver _ _ (by decide) (by constructor <;> decide) (by constructor <;> decide) fun h => absurd rfl h
theorem test_inv_inData :
    Inv (inData .none 0 0) ∧ Inv (inData .one 6 0x15) ∧ Inv (inData .zero 7 0x40) := by
  refine ⟨?_, ?_, ?_⟩ <;> refine inv_receiver _ _ (by decide) (by constructor <;> decide) (by constructor <;> decide) ?_ <;>
    exact fun h => absurd rfl h
theorem test_inv_packetDone : Inv packetDone :=
  inv_receiver _ _ (by decide) (by constructor <;> decide) (by constructor <;> decide) fun h => absurd rfl h
theorem test_inv_full : Inv full :=
  inv_receiver _ _ (by decide) (by constructor <;> decide) (by constructor <;> decide) fun h => absurd rfl h
theorem test_inv_readyPacket : Inv (readyPacket .armedCh1 .none) ∧ Inv (readyPacket .idle .ch2) := by
  refine ⟨?_, ?_⟩ <;> refine inv_receiver _ _ (by decide) (by constructor <;> decide) (by constructor <;> decide) ?_ <;>
    exact fun _ => by decide

/-! ### Witnesses: for each statement with hypotheses, a state and operands that meet them all -/

theorem of_after {i : Instr} {s : State} {f : State → Bool} (h : after i s f = true) :
    ∃ t, exec i s = .next t ∧ f t = true := by
  unfold after at h
  split at h
  · exact ⟨_, ‹_›, h⟩
  · cases h
  · cases h

theorem of_afterStep {s : State} {f : State → Bool} (h : afterStep s f = true) :
    ∃ t, step s = .next t ∧ f t = true := by
  unfold afterStep at h
  split at h
  · exact ⟨_, ‹_›, h⟩
  · cases h
  · cases h

theorem test_witness_DecodeOfEncode :
    (Instr.packet [1, 2, 3, 4, 5]).wf .reference = true ∧ (Instr.rxCapture 0xFFFFFFFF).wf .reference = true ∧
    (Instr.setBidiThreshold 0xFFF).wf .reference = true := by decide

theorem test_witness_EncodeOfDecode :
    decode .reference .host [0x00000302, 0x00828103, 0x00000003] = .cmd (.packet [0x03, 0x81, 0x82]) 2 := by decide

theorem test_witness_LegalTransactionDecodes :
    ([0x00828103] : List Word).length + 1 = Op.packet.words 3 ∧
    ¬ ReservedNonzero .reference .packet 3 0 [0x00828103] := by
  refine ⟨by decide, ?_⟩
  rintro (h | ⟨k, h1, h2, h3⟩)
  · exact h rfl
  · obtain rfl : k = 3 := by simp at h1 h2; omega
    exact h3 (by decide)

theorem test_witness_ReservedBitFaultsFieldInvalid :
    ∃ s : State, s.params.valid = true ∧ s.ports.turns = Op.packet.port :: [] ∧
      s.ports.words Op.packet.port = headerWord Op.packet.code 3 0 :: ([0x01828103] ++ [0x00000003]) ∧
      ([0x01828103] : List Word).length + 1 = Op.packet.words 3 ∧
      ReservedNonzero s.params .packet 3 0 [0x01828103] :=
  ⟨given .host [0x00000302, 0x01828103, 0x00000003] .reset, by decide, by decide, by decide, by decide,
    .inr ⟨3, by decide, by decide, by decide⟩⟩

theorem test_witness_IllegalOpcodeFaults :
    (given .host [0x00000080] .reset).params.valid = true ∧ (given .host [0x00000080] .reset).ports.turns = [.host] ∧
    (given .host [0x00000080] .reset).ports.words .host = [0x00000080] ∧
    IllegalOn .host 0x80 ∧ IllegalOn .host 0x83 ∧ IllegalOn .host 0x84 ∧ IllegalOn .host 0x00 ∧
    IllegalOn .host 0x0D ∧ IllegalOn .host 0x7F ∧ IllegalOn .host 0xFF ∧ IllegalOn .event 0x01 ∧
    IllegalOn .event 0x0C ∧ ¬ IllegalOn .host 0x01 ∧ ¬ IllegalOn .host 0x0C ∧ ¬ IllegalOn .event 0x80 ∧
    ¬ IllegalOn .event 0x83 := by
  refine ⟨by decide, by decide, by decide, ?_, ?_, ?_, ?_, ?_, ?_, ?_, ?_, ?_, ?_, ?_, ?_, ?_⟩ <;>
    (unfold IllegalOn; decide)

theorem test_witness_StepRunsDecodedTransaction :
    ∃ s : State, s.params.valid = true ∧ (Instr.packet [0x03, 0x81, 0x82]).wf s.params = true ∧
      s.ports.turns = Port.host :: [] ∧
      s.ports.words .host = encode (.packet [0x03, 0x81, 0x82]) ++ [0x00000003] :=
  ⟨given .host [0x00000302, 0x00828103, 0x00000003] .reset, by decide, by decide, by decide, by decide⟩

theorem test_witness_ResetStateReadsZero :
    Params.reference.valid = true ∧ { Params.reference with capBits := 16, dacBits := 1 }.valid = true ∧
    AssignedRegister 0x0E ∧ ¬ AssignedRegister 0x0F ∧ AssignedRegister 0x10 ∧ AssignedRegister 0x13 ∧
    ¬ AssignedRegister 0x14 ∧ AssignedRegister 0x1F ∧ ¬ AssignedRegister 0x20 := by
  refine ⟨by decide, by decide, ?_, ?_, ?_, ?_, ?_, ?_, ?_⟩ <;> (unfold AssignedRegister; decide)

theorem test_accepted_bounds :
    AcceptedConfig .reference 14 true 52 90 ∧ AcceptedConfig .reference 255 true 64 65535 := by
  refine ⟨?_, ?_⟩ <;> constructor <;> decide

theorem test_refused_bounds :
    ¬ AcceptedConfig .reference 13 false 58 100 ∧ ¬ AcceptedConfig .reference 14 false 51 100 ∧
    ¬ AcceptedConfig .reference 14 false 65 100 ∧ ¬ AcceptedConfig .reference 14 false 58 89 := by
  refine ⟨fun h => ?_, fun h => ?_, fun h => ?_, fun h => ?_⟩
  · exact absurd h.np (by decide)
  · exact absurd h.bit1 (by decide)
  · exact absurd h.bit1 (by decide)
  · exact absurd h.bit0 (by decide)

theorem test_witness_InitTxConfigures :
    stopped.params.valid = true ∧ stopped.mem.wf = true ∧ stopped.tx.run = .stopped ∧ State.reset.tx.run = .uninit ∧
    AcceptedConfig stopped.params 14 true 52 90 :=
  ⟨by decide, by decide, rfl, rfl, test_accepted_bounds.1⟩

theorem test_witness_ConfigInvalidFault :
    State.reset.tx.run = .uninit ∧ ¬ AcceptedConfig State.reset.params 13 false 58 100 ∧
    ∃ t, exec (.initTx 13 false false false 58 100) .reset = .next t ∧
      decide (t.out.kind = .faulted .configInvalid) = true :=
  ⟨rfl, test_refused_bounds.1, of_after (by decide)⟩

theorem test_witness_PacketFillsMailbox :
    State.reset.params.valid = true ∧ State.reset.mem.wf = true ∧
    (List.replicate 18 (1 : Byte)).length ≤ State.reset.params.pktCapacity ∧
    ([] : List Byte).length ≤ State.reset.params.pktCapacity := by decide

theorem test_witness_PacketLengthFault :
    State.reset.params.pktCapacity < (List.replicate 19 (1 : Byte)).length ∧
    ∃ t, exec (.packet (List.replicate 19 1)) .reset = .next t ∧
      decide (t.out.kind = .faulted .packetLength) = true :=
  ⟨by decide, of_after (by decide)⟩

/-- Both forms of the latch: a packet in the mailbox, and an empty mailbox. -/
theorem test_witness_StartLatchesAndRuns :
    stopped.params.valid = true ∧ stopped.mem.wf = true ∧ stopped.tx.run = .stopped ∧
    (stopped.tx.mboxFull = true ∧ 1 ≤ stopped.tx.mboxLen.toNat) ∧
    ∃ s : State, s.params.valid = true ∧ s.mem.wf = true ∧ s.tx.run = .stopped ∧ s.tx.mboxFull = false :=
  ⟨by decide, by decide, rfl, by decide, { State.reset with tx := { Tx.reset with run := .stopped } }, by decide,
    by decide, rfl, rfl⟩

theorem test_witness_StopRequests : atFirst.tx.run = .running ∧ halting.tx.run ≠ .running := by decide

theorem test_witness_NotInitializedFault :
    State.reset.tx.run = .uninit ∧
    ∃ t, exec .txUpdate .reset = .next t ∧ decide (t.out.kind = .faulted .notInitialized) = true :=
  ⟨rfl, of_after (by decide)⟩

theorem test_witness_BusyFault :
    atFirst.tx.run = .running ∧ halting.tx.run = .halting ∧
    ∃ t, exec .start halting = .next t ∧ decide (t.out.kind = .faulted .busy) = true :=
  ⟨rfl, rfl, of_after (by decide)⟩

/-- A track slot and a cutout slot. -/
theorem test_witness_TxUpdateAdvances :
    (Inv atFirst ∧ atFirst.tx.run = .running ∧
      nextSlot atFirst.tx.cfg atFirst.tx.actLen atFirst.tx.cursor = some ⟨.preamble, 0, 0, true⟩ ∧
      dur atFirst ⟨.preamble, 0, 0, true⟩ = .ok 58 ∧ (1 : Int) ≤ 58 ∧ (58 : Int) ≤ atFirst.params.arrMax) ∧
    (Inv atStart ∧ atStart.tx.run = .running ∧
      nextSlot atStart.tx.cfg atStart.tx.actLen atStart.tx.cursor = some ⟨.bidiCh1, 0, 0, false⟩ ∧
      dur atStart ⟨.bidiCh1, 0, 0, false⟩ = .ok 167 ∧ (1 : Int) ≤ 167 ∧ (167 : Int) ≤ atStart.params.arrMax) :=
  ⟨⟨test_inv_atFirst, rfl, by decide, rfl, by decide, by decide⟩,
    ⟨test_inv_atStart, rfl, by decide, rfl, by decide, by decide⟩⟩

/-- With no STOP pending and with one. -/
theorem test_witness_TxUpdateWraps :
    (Inv atEnd ∧ atEnd.tx.run = .running ∧ nextSlot atEnd.tx.cfg atEnd.tx.actLen atEnd.tx.cursor = none ∧
      atEnd.tx.stopReq = false) ∧
    (Inv atEndStop ∧ atEndStop.tx.run = .running ∧
      nextSlot atEndStop.tx.cfg atEndStop.tx.actLen atEndStop.tx.cursor = none ∧ atEndStop.tx.stopReq = true) :=
  ⟨⟨test_inv_atEnd, rfl, by decide, rfl⟩, ⟨test_inv_atEndStop, rfl, by decide, rfl⟩⟩

theorem test_witness_TxUpdateHaltsAndStops : halting.tx.run = .halting ∧ stopped.tx.run = .stopped := by decide

/-- Lengths of 0 and of ARR_MAX + 1, the two edges of the range. -/
theorem test_witness_ReloadRangeStopsEngine :
    (∃ s c, Inv s ∧ s.tx.run = .running ∧ nextSlot s.tx.cfg s.tx.actLen s.tx.cursor = some c ∧ dur s c = .ok 0 ∧
      ¬ ((1 : Int) ≤ 0 ∧ (0 : Int) ≤ s.params.arrMax)) ∧
    (∃ s c, Inv s ∧ s.tx.run = .running ∧ nextSlot s.tx.cfg s.tx.actLen s.tx.cursor = some c ∧
      dur s c = .ok 0x10000 ∧ ¬ ((1 : Int) ≤ 0x10000 ∧ (0x10000 : Int) ≤ s.params.arrMax)) :=
  ⟨⟨{ atData 0 8 true with ovr := { mask := 0x200, dP := -100, dN := 0 } }, ⟨.data, 1, 0, false⟩,
      inv_ovr test_inv_separator _, rfl, by decide, rfl, by decide⟩,
    ⟨{ atData 0 8 true with ovr := { mask := 0x200, dP := 65436, dN := 0 } }, ⟨.data, 1, 0, false⟩,
      inv_ovr test_inv_separator _, rfl, by decide, rfl, by decide⟩⟩

theorem test_witness_ReloadRangeStopsEngine_raised :
    ∃ s, Inv s ∧ ∃ t, exec .txUpdate s = .next t ∧ decide (t.out.kind = .faulted .reloadRange) = true :=
  ⟨{ atData 0 8 true with ovr := { mask := 0x200, dP := -100, dN := 0 } }, inv_ovr test_inv_separator _,
    of_after (f := fun t => decide (t.out.kind = .faulted .reloadRange)) (by decide)⟩

theorem test_witness_PolarityFollowsHalf :
    (Inv atFirst ∧ atFirst.tx.run = .running ∧ atFirst.tx.cursor.phase = .preamble ∧
      ∃ t, exec .txUpdate atFirst = .next t ∧ decide (t.out.kind = .done) = true) ∧
    (Inv atEndBit ∧ atEndBit.tx.run = .running ∧ atEndBit.tx.cursor.phase = .data ∧
      ∃ t, exec .txUpdate atEndBit = .next t ∧ decide (t.out.kind = .done) = true) :=
  ⟨⟨test_inv_atFirst, rfl, rfl, of_after (by decide)⟩, ⟨test_inv_endBit, rfl, rfl, of_after (by decide)⟩⟩

theorem test_witness_CutoutSlots :
    (Inv atStart ∧ atStart.tx.cursor.phase = .bidiStart ∧
      ∃ t, exec .txUpdate atStart = .next t ∧ decide (t.out.kind = .done) = true) ∧
    (Inv atCh1 ∧ atCh1.tx.cursor.phase = .bidiCh1 ∧
      ∃ t, exec .txUpdate atCh1 = .next t ∧ decide (t.out.kind = .done) = true) ∧
    (Inv atCh2 ∧ atCh2.tx.cursor.phase = .bidiCh2 ∧
      ∃ t, exec .txUpdate atCh2 = .next t ∧ decide (t.out.kind = .done) = true) ∧
    (Inv atEnd ∧ atEnd.tx.cursor.phase = .bidiEnd ∧
      ∃ t, exec .txUpdate atEnd = .next t ∧ decide (t.out.kind = .done) = true) :=
  ⟨⟨test_inv_atStart, rfl, of_after (by decide)⟩, ⟨test_inv_atCh1, rfl, of_after (by decide)⟩,
    ⟨test_inv_atCh2, rfl, of_after (by decide)⟩, ⟨test_inv_atEnd, rfl, of_after (by decide)⟩⟩

theorem test_witness_TriggerMarksFirstSlot :
    (Inv atFirst ∧ atFirst.tx.run = .running ∧ atFirst.tx.cursor = .first ∧ atFirst.tx.cfg.trig = true ∧
      ∃ t, exec .txUpdate atFirst = .next t ∧ decide (t.out.kind = .done) = true) ∧
    (Inv halting ∧ halting.tx.run ≠ .running ∧ ∃ t, exec .txUpdate halting = .next t ∧ true = true) ∧
    (Inv .reset ∧ State.reset.tx.cfg.trig = false) ∧
    (Instr.stop ≠ .txUpdate ∧ ∃ t, exec .stop atFirst = .next t ∧ true = true) :=
  ⟨⟨test_inv_atFirst, rfl, rfl, rfl, of_after (by decide)⟩,
    ⟨test_inv_halting, by decide, of_after (f := fun _ => true) (by decide)⟩, ⟨test_inv_reset, rfl⟩,
    by decide, of_after (f := fun _ => true) (by decide)⟩

/-- A TX_UPDATE that leaves the cursor at a slot of each kind, with that slot's length. -/
theorem test_witness_ReloadIsNextSlotLength :
    (Inv atFirst ∧ ∃ t, exec .txUpdate atFirst = .next t ∧
      (decide (t.out.reload = some 58 ∧ t.tx.cursor.phase = .preamble) &&
        after .txUpdate t fun u => decide (u.out.kind = .done)) = true) ∧
    (Inv atEndBit ∧ ∃ t, exec .txUpdate atEndBit = .next t ∧
      decide (t.out.reload = some 26 ∧ t.tx.cursor.phase = .bidiStart) = true) ∧
    (Inv atStart ∧ ∃ t, exec .txUpdate atStart = .next t ∧
      decide (t.out.reload = some 167 ∧ t.tx.cursor.phase = .bidiCh1) = true) ∧
    (Inv atCh1 ∧ ∃ t, exec .txUpdate atCh1 = .next t ∧
      decide (t.out.reload = some 295 ∧ t.tx.cursor.phase = .bidiCh2) = true) ∧
    (Inv atCh2 ∧ ∃ t, exec .txUpdate atCh2 = .next t ∧
      decide (t.out.reload = some 58 ∧ t.tx.cursor.phase = .bidiEnd) = true) :=
  ⟨⟨test_inv_atFirst, of_after (f := fun t => decide (t.out.reload = some 58 ∧ t.tx.cursor.phase = .preamble) &&
      after .txUpdate t fun u => decide (u.out.kind = .done)) (by decide)⟩,
    ⟨test_inv_endBit, of_after (f := fun t => decide (t.out.reload = some 26 ∧ t.tx.cursor.phase = .bidiStart))
      (by decide)⟩,
    ⟨test_inv_atStart, of_after (f := fun t => decide (t.out.reload = some 167 ∧ t.tx.cursor.phase = .bidiCh1))
      (by decide)⟩,
    ⟨test_inv_atCh1, of_after (f := fun t => decide (t.out.reload = some 295 ∧ t.tx.cursor.phase = .bidiCh2))
      (by decide)⟩,
    ⟨test_inv_atCh2, of_after (f := fun t => decide (t.out.reload = some 58 ∧ t.tx.cursor.phase = .bidiEnd))
      (by decide)⟩⟩

theorem test_witness_ActivePacketChangesOnlyAtLatch :
    (Inv stopped ∧ ∃ t, exec .start stopped = .next t ∧ true = true) ∧
    (Inv atEnd ∧ ∃ t, exec .txUpdate atEnd = .next t ∧ true = true) :=
  ⟨⟨test_inv_stopped, of_after (f := fun _ => true) (by decide)⟩,
    ⟨test_inv_atEnd, of_after (f := fun _ => true) (by decide)⟩⟩

theorem test_witness_InitTwiceIsInitOnce :
    stopped.params.valid = true ∧ stopped.mem.wf = true ∧ stopped.tx.run = .stopped ∧
    AcceptedConfig stopped.params 255 true 64 65535 :=
  ⟨by decide, by decide, rfl, test_accepted_bounds.2⟩

theorem test_witness_NextSlotWalksFrame :
    1 ≤ (cfg58 true true).np.toNat ∧ (3 : Byte).toNat ≤ 254 ∧
    (frameSlots (cfg58 true true).np.toNat (3 : Byte).toNat (cfg58 true true).bidi)[0]? = some .first := by decide

theorem test_witness_StopTakesAtMostOneFrame :
    Inv atEndStop ∧ atEndStop.tx.run = .running ∧ atEndStop.tx.stopReq = true := ⟨test_inv_atEndStop, rfl, rfl⟩

theorem test_witness_OneBitsAreShorter : Inv stopped ∧ stopped.tx.run ≠ .uninit := ⟨test_inv_stopped, by decide⟩

/-- ACT holds 03 81 82: the start bit, the end bit, and the first and the last bit of the last byte. -/
theorem test_witness_OverrideAdjustsMaskedZeros_bits :
    atFirst.tx.actLen.toNat = ([0x03, 0x81, 0x82] : List Byte).length ∧
    ([0x03, 0x81, 0x82] : List Byte).length ≤ packetRegion ∧ atFirst.mem.bytes actBase 3 = [0x03, 0x81, 0x82] ∧
    bitval atFirst 0 0 = .ok false ∧ bitval atFirst 3 0 = .ok true ∧
    (1 : Byte).toNat ≤ 8 ∧ (8 : Byte).toNat ≤ 8 ∧ (2 : Byte).toNat < ([0x03, 0x81, 0x82] : List Byte).length ∧
    bitval atFirst 2 1 = .ok true ∧ bitval atFirst 2 8 = .ok false :=
  ⟨by decide, by decide, by decide, rfl, rfl, by decide, by decide, by decide, rfl, rfl⟩

/-- A "0" bit at position 0, a "1" bit at position 8, and a "0" bit at position 65, past the mask. -/
theorem test_witness_OverrideAdjustsMaskedZeros :
    bitval (atData 0 0 false) 0 0 = .ok false ∧ bitval (atData 0 8 true) 0 8 = .ok true ∧
    9 * (0 : Byte).toNat + (0 : Byte).toNat < 64 ∧ (0x85 : BitVec 64).getLsbD 0 = true ∧
    bitval { atFirst with tx := { atFirst.tx with actLen := 9 } } 7 2 = .ok false ∧
    64 ≤ 9 * (7 : Byte).toNat + (2 : Byte).toNat := ⟨rfl, rfl, by decide, by decide, rfl, by decide⟩

/-- The mask covers positions 7 and 8, which carry the "1" bits of 0x03. -/
theorem test_witness_OverrideNeverTouchesOnes :
    ∃ s t, Inv s ∧ s.ovr.mask = 0x180 ∧
      (∀ j k : Byte, j.toNat < s.tx.actLen.toNat → k.toNat ≤ 8 → bitval s j k = .ok false →
        9 * j.toNat + k.toNat < 64 → s.ovr.mask.getLsbD (9 * j.toNat + k.toNat) = false) ∧
      exec .txUpdate s = .next t := by
  have hm : ∀ n, n ≠ 7 → n ≠ 8 → (0x180 : BitVec 64).getLsbD n = false := by
    intro n h7 h8
    by_cases hn : n < 64
    · have : ∀ m < 64, m ≠ 7 → m ≠ 8 → (0x180 : BitVec 64).getLsbD m = false := by decide
      exact this n hn h7 h8
    · exact BitVec.getLsbD_of_ge _ _ (by omega)
  let s : State := { atData 0 0 false with ovr := { mask := 0x180, dP := 50, dN := -30 } }
  obtain ⟨t, ht, -⟩ := of_after (i := .txUpdate) (s := s) (f := fun _ => true) (by decide)
  refine ⟨s, t, inv_ovr test_inv_startBit _, rfl, ?_, ht⟩
  intro j k _ hk hb _
  refine hm _ (fun h => ?_) fun h => ?_
  · obtain rfl : j = 0 := BitVec.eq_of_toNat_eq (by simp; omega)
    obtain rfl : k = 7 := BitVec.eq_of_toNat_eq (by simp at h ⊢; omega)
    exact absurd hb (by decide)
  · obtain rfl : j = 0 := BitVec.eq_of_toNat_eq (by simp; omega)
    obtain rfl : k = 8 := BitVec.eq_of_toNat_eq (by simp at h ⊢; omega)
    exact absurd hb (by decide)

theorem test_witness_OverrideChangeSparesPreload :
    Inv atFirst ∧ ∃ s', exec (.setOvrMask 0x85) atFirst = .next s' ∧
      after .txUpdate s' (fun t => decide (t.out.reload = some 58)) = true :=
  ⟨test_inv_atFirst, of_after (f := fun s' => after .txUpdate s' fun t => decide (t.out.reload = some 58)) (by decide)⟩

theorem test_witness_ThresholdSetAndDriven :
    (0xFFF : BitVec 16).toNat < 2 ^ State.reset.params.dacBits ∧
    2 ^ State.reset.params.dacBits ≤ (0x1000 : BitVec 16).toNat := by decide

theorem test_witness_BidiByteStoresOrDrops :
    atCh2.mem.wf = true ∧ atCh2.tx.pins.rcCh = .ch1 ∧ atCh2.bidi.n1.toNat < 2 ∧ bidiStoreAddr atCh2 = some 0x80 ∧
    atEnd.tx.pins.rcCh = .ch2 ∧ atEnd.bidi.n2.toNat < 6 ∧ atFirst.tx.pins.rcCh = .none ∧
    bidiStoreAddr atFirst = none := by decide

theorem test_witness_BidiTakeReturnsSnapshot :
    State.reset.bidi.ready = false ∧
    { State.reset with bidi := { State.reset.bidi with ready := true } }.bidi.ready = true := by decide

/-- One byte of each kind, and whole, broken and cut-off datagrams; a datagram cut off by `n2` with bytes behind it. -/
theorem test_witness_DissectChannelTwo :
    Params.reference.valid = true ∧ (1 : Nat) ≤ ([0x99, 0xA5] : List Byte).length ∧
    rcDecode .reference 0x87 = .invalid ∧ specialOf (rcDecode .reference 0x0F) = some .ack ∧
    rcDecode .reference 0xAA = .data 1 ∧ dgSymsOf .reference ((1 : BitVec 6).extractLsb' 2 4) = some 2 ∧
    rcDecode .reference 0x99 = .data 8 ∧ dgSymsOf .reference ((8 : BitVec 6).extractLsb' 2 4) = none ∧
    (∀ k < 2, rcDecode .reference (([0xA5, 0x99] : List Byte).getD k 0) = .data (([3, 8] : List (BitVec 6)).getD k 0)) ∧
    rcDecode .reference (([0xA5, 0x00] : List Byte).getD 1 0) = .invalid ∧
    (0 : Nat) ≤ ([0x99, 0x99] : List Byte).length ∧ (0 : Nat) + 1 < 2 ∧
    dissect2 .reference [0xA5, 0x99, 0x99] 1 = [] := by decide

/-- Two data symbols, and pairs that are not: a special byte and a data symbol, an invalid byte and a special one. -/
theorem test_witness_DissectChannelOne :
    rcDecode .reference 0x99 = .data 8 ∧ rcDecode .reference 0xA5 = .data 3 ∧ rcDecode .reference 0xF0 = .ack ∧
    dissect1 .reference [0xF0, 0x99] 2 = [.special .ack] ∧ rcDecode .reference 0x00 = .invalid ∧
    dissect1 .reference [0x00, 0x3C] 2 = [.special .nack] ∧ rcDecode .reference 0xE1 = .busy := by decide

theorem test_witness_RxInitResetsReceiver : packetDone.mem.wf = true := by decide

/-- A first edge, an edge that ends an interval, one with which no packet is accepted, and a timestamp too wide for 16-bit
captures. -/
theorem test_witness_CaptureRecordsEdge :
    (Inv .reset ∧ (1000 : Word).toNat < 2 ^ State.reset.params.capBits ∧ State.reset.rx.tsValid = false) ∧
    (Inv packetDone ∧ (1058 : Word).toNat < 2 ^ packetDone.params.capBits) ∧
    (Inv (hunting 19) ∧ (1058 : Word).toNat < 2 ^ (hunting 19).params.capBits ∧ ¬ AcceptsPacket (hunting 19) 1058) ∧
    2 ^ { Params.reference with capBits := 16 }.capBits ≤ (0x10000 : Word).toNat :=
  ⟨⟨test_inv_reset, by decide, rfl⟩, ⟨test_inv_packetDone, by decide⟩,
    ⟨test_inv_hunting.2.1, by decide, fun h => absurd h.2.2.1 (by decide)⟩, by decide⟩

/-- Between the bands, and the edges of both. -/
theorem test_witness_InvalidIntervalResetsFraming :
    (packetDone.mem.wf = true ∧ (1075 : Word).toNat < 2 ^ packetDone.params.capBits ∧
      packetDone.rx.tsValid = true ∧ classify packetDone.params (interval packetDone 1075) = .invalid) ∧
    Params.reference.valid = true ∧
    [51, 52, 64, 65, 89, 90, 10000, 10001].map (classify .reference) =
      [.invalid, .one, .one, .invalid, .invalid, .zero, .zero, .invalid] := by decide

theorem test_witness_HuntCountsOneHalves :
    Inv (hunting 19) ∧ Inv (hunting 20) ∧ (hunting 19).rx.tsValid = true ∧ (hunting 19).rx.st = .hunt ∧
    classify .reference (interval (hunting 19) 1058) = .one ∧
    classify .reference (interval (hunting 19) 1100) = .zero ∧
    2 * Params.reference.rxPreambleMin ≤ (hunting 20).rx.h.toNat ∧
    (hunting 19).rx.h.toNat < 2 * Params.reference.rxPreambleMin :=
  ⟨test_inv_hunting.2.1, test_inv_hunting.2.2, rfl, rfl, by decide, by decide, by decide, by decide⟩

theorem test_witness_StartBitSecondHalf :
    Inv inStart2 ∧ inStart2.rx.st = .start2 ∧ classify .reference (interval inStart2 1100) = .zero ∧
    classify .reference (interval inStart2 1058) = .one :=
  ⟨test_inv_inStart2, rfl, by decide, by decide⟩

/-- A first half; halves that agree before the seventh bit and at the eighth; halves that disagree; a separator; a byte
too many. -/
theorem test_witness_DataHalvesMakeBytes :
    (Inv (inData .none 0 0) ∧ (inData .none 0 0).rx.first = .none) ∧
    (Inv (inData .one 6 0x15) ∧ (inData .one 6 0x15).rx.first = firstOf true ∧
      (inData .one 6 0x15).rx.bitcnt.toNat < 7 ∧ (inData .one 6 0x15).rx.first ≠ firstOf false) ∧
    (Inv (inData .zero 7 0x40) ∧ (inData .zero 7 0x40).rx.first = firstOf false ∧
      (inData .zero 7 0x40).rx.bitcnt = 7 ∧ (inData .zero 7 0x40).rx.n.toNat < Params.reference.rxCapacity) ∧
    (Inv full ∧ full.rx.first = firstOf false ∧ full.rx.bitcnt = 7 ∧
      full.rx.n.toNat = full.params.rxCapacity) ∧
    classify .reference (interval (inData .one 6 0x15) 1058) = classOfBit true ∧
    classify .reference (interval full 1100) = classOfBit false :=
  ⟨⟨test_inv_inData.1, rfl⟩, ⟨test_inv_inData.2.1, rfl, by decide, by decide⟩,
    ⟨test_inv_inData.2.2, rfl, rfl, by decide⟩, ⟨test_inv_full, rfl, rfl, by decide⟩, by decide, by decide⟩

/-- A separator's second half: its first half was ZERO. -/
theorem test_witness_DataHalvesMakeBytes_separator :
    ∃ s, Inv s ∧ s.rx.st = .data ∧ s.rx.first = firstOf false ∧ s.rx.bitcnt = 8 ∧
      classify s.params (interval s 1100) = classOfBit false :=
  ⟨receiver (cells038182 0x40) fun r =>
      { r with st := .data, h := 20, first := .zero, bitcnt := 8, acc := 0x82, n := 3 },
    inv_receiver _ _ (by decide) (by constructor <;> decide) (by constructor <;> decide) fun h => absurd rfl h,
    rfl, rfl, rfl, by decide⟩

/-- A packet that is accepted, and one of a single byte, which is dropped. -/
theorem test_witness_PacketEndAcceptsValidPackets :
    (Inv packetDone ∧ packetDone.rx.st = .data ∧ packetDone.rx.first = .none ∧ packetDone.rx.bitcnt = 8 ∧
      classify packetDone.params (interval packetDone 1058) = .one ∧
      (2 ≤ packetDone.rx.n.toNat ∧ ValidChecksum (packetDone.mem.bytes rxbBase packetDone.rx.n.toNat))) ∧
    ∃ s, Inv s ∧ s.rx.st = .data ∧ s.rx.first = .none ∧ s.rx.bitcnt = 8 ∧
      classify s.params (interval s 1058) = .one ∧ ¬ 2 ≤ s.rx.n.toNat :=
  ⟨⟨test_inv_packetDone, rfl, rfl, rfl, by decide, by decide⟩,
    receiver [] fun r => { r with st := .data, h := 20, bitcnt := 8, n := 1 },
    inv_receiver _ _ (by decide) (by constructor <;> decide) (by constructor <;> decide) fun h => absurd rfl h,
    rfl, rfl, rfl, by decide, by decide⟩

theorem test_witness_RxTakeReturnsPacket :
    Inv (readyPacket .idle .ch2) ∧ (readyPacket .idle .ch2).rx.ready = true ∧ Inv .reset ∧
    State.reset.rx.ready = false := ⟨test_inv_readyPacket.2, rfl, test_inv_reset, rfl⟩

theorem test_witness_OneShotOpensWindows :
    (readyPacket .armedCh1 .none).rx.os = .armedCh1 ∧ (readyPacket .armedCh2 .ch1).rx.os = .armedCh2 ∧
    State.reset.rx.os = .idle := by decide

/-- A receiver that needs one preamble bit, in Hunt after an edge at 1000. -/
def shortLock : State := { hunting 0 with params := { Params.reference with rxPreambleMin := 1 } }

/-- The edges of two ONE halves and two ZERO halves after 1000. -/
def lockEdges : List Word := [1058, 1116, 1216, 1316]

theorem test_inv_shortLock : Inv shortLock where
  params := by decide
  mem := by decide
  tails := by constructor <;> decide
  tx := by
    constructor <;> first | decide | exact fun h => absurd h (by decide)
  bidi := by constructor <;> decide
  rx := by constructor <;> decide
  checksum := fun h => absurd rfl h
  fault := by decide

/-- Whether a run of operations answers a next state for which `f` holds. -/
def afterAll (is : List Instr) (s : State) (f : State → Bool) : Bool :=
  match execAll is s with
  | .next t => f t
  | .fault _ => false
  | .refused _ => false

theorem of_afterAll {is : List Instr} {s : State} {f : State → Bool} (h : afterAll is s f = true) :
    ∃ t, execAll is s = .next t ∧ f t = true := by
  unfold afterAll at h
  split at h
  · exact ⟨_, ‹_›, h⟩
  · cases h
  · cases h

theorem test_witness_LockNeedsWholePreamble :
    Inv shortLock ∧ shortLock.rx.st = .hunt ∧ shortLock.rx.h = 0 ∧ shortLock.rx.tsValid = true ∧
    (∀ ts ∈ lockEdges, ts.toNat < 2 ^ shortLock.params.capBits) ∧
    (∀ k u, k < lockEdges.length → execAll ((lockEdges.take k).map .rxCapture) shortLock = .next u →
      u.rx.st ≠ .data) ∧
    ∃ t, execAll (lockEdges.map .rxCapture) shortLock = .next t ∧ decide (t.rx.st = .data) = true := by
  refine ⟨test_inv_shortLock, rfl, rfl, rfl, fun ts h => ?_, fun k u hlt h hd => ?_,
    of_afterAll (f := fun t => decide (t.rx.st = .data)) (by decide)⟩
  · simp only [lockEdges, List.mem_cons, List.not_mem_nil, or_false] at h
    rcases h with rfl | rfl | rfl | rfl <;> decide
  have hk : afterAll ((lockEdges.take k).map .rxCapture) shortLock (fun t => decide (t.rx.st ≠ .data)) = true := by
    match k, hlt with
    | 0, _ => decide
    | 1, _ => decide
    | 2, _ => decide
    | 3, _ => decide
  obtain ⟨t, ht, hf⟩ := of_afterAll hk
  rw [h] at ht
  cases ht
  exact absurd hd (by simpa using hf)

/-- The frame of 0x55 0x55, each half at the middle of its band. -/
theorem test_witness_FrameRoundTrip :
    ∃ (bytes : List Byte) (np : Nat) (ds : List Nat),
      Inv (hunting 0) ∧ (hunting 0).rx.st = .hunt ∧ (hunting 0).rx.h = 0 ∧ (hunting 0).rx.tsValid = true ∧
      2 ≤ bytes.length ∧ bytes.length ≤ (hunting 0).params.rxCapacity ∧ ValidChecksum bytes ∧
      (hunting 0).params.rxPreambleMin ≤ np ∧ np ≤ npMax ∧
      ds.length + 1 = (frameSlots np bytes.length false).length ∧
      ∀ (k d : Nat) (c : Cursor), ds[k]? = some d → (frameSlots np bytes.length false)[k]? = some c →
        d < 2 ^ (hunting 0).params.capBits ∧ classify (hunting 0).params d = classOfBit (slotBit bytes c) := by
  let half (c : Cursor) : Nat := if slotBit [0x55, 0x55] c then 58 else 100
  refine ⟨[0x55, 0x55], 10, (frameSlots 10 2 false).dropLast.map half, test_inv_hunting.1, rfl, rfl, rfl,
    by decide, by decide, by decide, by decide, by decide, by decide, fun k d c hd hc => ?_⟩
  rw [List.getElem?_map, Option.map_eq_some_iff] at hd
  obtain ⟨c', hc', rfl⟩ := hd
  have hcc : c' = c := by
    rw [List.getElem?_dropLast] at hc'
    split at hc'
    · exact Option.some.inj (hc'.symm.trans hc)
    · cases hc'
  subst hcc
  by_cases hb : slotBit [0x55, 0x55] c' = true
  · simp only [half, hb, if_true]
    decide
  · simp only [half, hb]
    decide

theorem test_witness_StatusReadsHaveNoSideEffect :
    (0x8F : Byte).toNat ≤ 0x8F ∧ 0x8F < (0x90 : Byte).toNat ∧ reg .reset 0x0E = some 0 ∧ reg .reset 0x0F = none ∧
    reg .reset 0x10 = some 0 ∧ reg .reset 0x13 = some 0 ∧ reg .reset 0x14 = none ∧ reg .reset 0x1F = some 0 ∧
    reg .reset 0x20 = none := by decide

/-- A step that faults from FAULT 0, one that faults with FAULT set, and one that does not fault. -/
theorem test_witness_FirstFaultIsKept :
    (∃ t, step (given .host [0x00000003] .reset) = .next t ∧
      decide (t.out.kind = .faulted .notInitialized ∧ t.fault = 3) = true) ∧
    (∃ t, step (given .host [0x00000000] { State.reset with fault := 3 }) = .next t ∧
      decide (t.out.kind = .faulted .illegalOpcode ∧ t.fault = 3) = true) ∧
    (∃ t, step (given .host [0x00000009] .reset) = .next t ∧ decide (t.out.kind = .done ∧ t.fault = 0) = true) :=
  ⟨of_afterStep (f := fun t => decide (t.out.kind = .faulted .notInitialized ∧ t.fault = 3)) (by decide),
    of_afterStep (f := fun t => decide (t.out.kind = .faulted .illegalOpcode ∧ t.fault = 3)) (by decide),
    of_afterStep (f := fun t => decide (t.out.kind = .done ∧ t.fault = 0)) (by decide)⟩

theorem test_witness_FaultDoesNotStopBlock :
    (∃ t, exec .txUpdate { atFirst with fault := 5 } = .next t ∧ decide (t.out.kind = .done) = true) ∧
    ∃ t, exec (.readReg 0x1F) { atFirst with fault := 5 } = .next t ∧ decide (t.out.resp = [5]) = true :=
  ⟨of_after (f := fun t => decide (t.out.kind = .done)) (by decide),
    of_after (f := fun t => decide (t.out.resp = [5])) (by decide)⟩

theorem test_witness_FaultingStepIsPrecise :
    ∃ t, exec .start atFirst = .next t ∧ decide (t.out.kind = .faulted .busy) = true ∧
      FaultCode.busy ≠ .reloadRange := by
  obtain ⟨t, h, hk⟩ := of_after (i := .start) (s := atFirst) (f := fun t => decide (t.out.kind = .faulted .busy))
    (by decide)
  exact ⟨t, h, hk, by decide⟩

theorem test_witness_FaultingStepIsPrecise_step :
    ∃ t, step (given .host [0x00000000] .reset) = .next t ∧
      decide (t.out.kind = .faulted .illegalOpcode ∧ FaultCode.illegalOpcode ≠ .reloadRange) = true :=
  of_afterStep (f := fun t => decide (t.out.kind = .faulted .illegalOpcode ∧ FaultCode.illegalOpcode ≠ .reloadRange))
    (by decide)

theorem test_witness_IndicationsChangeOnlyByTheirOperations :
    (∃ t, exec (.rxCapture 1058) packetDone = .next t ∧ (!irqRx packetDone && irqRx t) = true) ∧
    (∃ t, exec .rxTake (readyPacket .idle .ch2) = .next t ∧ (irqRx (readyPacket .idle .ch2) && !irqRx t) = true) ∧
    (∃ t, exec .txUpdate atEnd = .next t ∧ (!irqBidi atEnd && irqBidi t) = true) ∧
    (∃ t, exec .start .reset = .next t ∧ (!irqFault .reset && irqFault t) = true) :=
  ⟨of_after (f := fun t => !irqRx packetDone && irqRx t) (by decide),
    of_after (f := fun t => irqRx (readyPacket .idle .ch2) && !irqRx t) (by decide),
    of_after (f := fun t => !irqBidi atEnd && irqBidi t) (by decide),
    of_after (f := fun t => !irqFault .reset && irqFault t) (by decide)⟩

/-- The states in which the four operations set or clear an indication. -/
theorem test_witness_IndicationsChangeOnlyByTheirOperations_clauses :
    AcceptsPacket packetDone 1058 ∧
    (∃ t, exec (.rxInit true) (readyPacket .idle .ch2) = .next t ∧ (!irqRx t) = true) ∧
    (atEnd.tx.run = .running ∧ atEnd.tx.cursor.phase = .bidiEnd ∧
      ∃ t, exec .txUpdate atEnd = .next t ∧ decide (t.out.kind = .done) = true) ∧
    (∃ t, exec .bidiTake atEnd = .next t ∧ (!irqBidi t) = true) ∧
    ∃ t, exec (.initTx 14 true false false 58 100) stopped = .next t ∧ decide (t.out.kind = .done) = true :=
  ⟨⟨by decide, by decide, rfl, rfl, rfl, by decide, by decide, by decide⟩,
    of_after (f := fun t => !irqRx t) (by decide),
    ⟨rfl, rfl, of_after (f := fun t => decide (t.out.kind = .done)) (by decide)⟩,
    of_after (f := fun t => !irqBidi t) (by decide),
    of_after (f := fun t => decide (t.out.kind = .done)) (by decide)⟩

theorem test_witness_SidesShareOnlyFault :
    (Inv atFirst ∧ ∃ t, exec .txUpdate atFirst = .next t ∧ true = true) ∧
    (Inv packetDone ∧ ∃ t, exec (.rxCapture 1058) packetDone = .next t ∧ true = true) :=
  ⟨⟨test_inv_atFirst, of_after (f := fun _ => true) (by decide)⟩,
    ⟨test_inv_packetDone, of_after (f := fun _ => true) (by decide)⟩⟩

/-- An idle engine that a step configures, and a running one that a step advances. -/
theorem test_witness_StepKeepsInvariant :
    (Inv (given .host [0x00000E01, 0x0064003A] .reset) ∧
      ∃ t, step (given .host [0x00000E01, 0x0064003A] .reset) = .next t ∧ decide (t.tx.run = .stopped) = true) ∧
    (Inv (given .event [0x00000080] atFirst) ∧
      ∃ t, step (given .event [0x00000080] atFirst) = .next t ∧ decide (t.tx.cursor.half = true) = true) := by
  have h0 := test_inv_reset
  have h1 := test_inv_atFirst
  refine ⟨⟨⟨h0.params, h0.mem, ⟨h0.tails.mbox, h0.tails.act, h0.tails.rxb, h0.tails.rxr, h0.tails.braw1,
      h0.tails.braw2, h0.tails.bsnap1, h0.tails.bsnap2⟩, h0.tx, h0.bidi, h0.rx, h0.checksum, h0.fault⟩, ?_⟩,
    ⟨⟨h1.params, h1.mem, ⟨h1.tails.mbox, h1.tails.act, h1.tails.rxb, h1.tails.rxr, h1.tails.braw1,
      h1.tails.braw2, h1.tails.bsnap1, h1.tails.bsnap2⟩, h1.tx, h1.bidi, h1.rx, h1.checksum, h1.fault⟩, ?_⟩⟩
  · exact of_afterStep (f := fun t => decide (t.tx.run = .stopped)) (by decide)
  · exact of_afterStep (f := fun t => decide (t.tx.cursor.half = true)) (by decide)

theorem test_witness_ResetMeetsInvariant : { Params.reference with capBits := 16, pktCapacity := 32 }.valid = true := by
  decide

theorem test_witness_ReachableStatesNeverStop :
    Inv atEndStop ∧ Inv packetDone ∧ Reachable (State.resetWith .reference) :=
  ⟨test_inv_atEndStop, test_inv_packetDone, .reset _ test_reference_valid⟩

end Sys2Proof.Tests
end

section
/-! SUPPORT. Decoding the words of a well-formed operation (30_encoding.md R92-R101, R105, R107): the header's mask field
by field, the reserved bits, the operands. -/

namespace Sys2Proof

/-! ### The mask of a row (R93), field by field -/

/-- R93: the bits of the header's `A` field that are no operand bits. -/
def Op.aMask : Op → Byte
  | .initTx | .packet | .readReg | .readBuf | .bidiByte => 0x00
  | .setOvrDelta | .rxInit => 0xFE
  | .start | .stop | .setOvrMask | .setBidiThreshold | .rxTake | .bidiTake | .txUpdate | .rxCapture
  | .rxBidiFire => 0xFF

/-- R93: the bits of the header's `B` field that are no operand bits. -/
def Op.bMask (p : Params) : Op → BitVec 16
  | .initTx => 0xFFF8
  | .setBidiThreshold => BitVec.ofNat 16 (0xFFFF * 2 ^ p.dacBits)
  | .packet | .start | .stop | .setOvrMask | .setOvrDelta | .rxInit | .rxTake | .bidiTake | .readReg
  | .readBuf | .txUpdate | .rxCapture | .bidiByte | .rxBidiFire => 0xFFFF

/-- The high half of SET_BIDI_THRESHOLD's mask is its `B` field's mask, whatever `DAC_BITS` is. -/
theorem mask_setBidiThreshold (p : Params) :
    Op.setBidiThreshold.mask p = headerWord 0xFF 0xFF (BitVec.ofNat 16 (0xFFFF * 2 ^ p.dacBits)) := by
  have hlow : (0x0000FFFF : Word) = headerWord 0xFF 0xFF 0 := by decide
  apply BitVec.eq_of_getLsbD_eq
  intro i hi
  simp only [Op.mask, hlow, BitVec.getLsbD_or, getLsbD_headerWord, BitVec.getLsbD_ofNat, Nat.testBit_mul_two_pow]
  by_cases h : i < 16
  · have : ¬ 16 + p.dacBits ≤ i := by omega
    simp [h, this]
  · have h8 : ¬ i < 8 := by omega
    have hle : 16 + p.dacBits ≤ i ↔ p.dacBits ≤ i - 16 := by omega
    have hsub : i - (16 + p.dacBits) = i - 16 - p.dacBits := by omega
    have h16 : i - 16 < 16 := by omega
    simp [h, h8, hi, hle, hsub, h16]

theorem mask_eq_headerWord (p : Params) (op : Op) : op.mask p = headerWord 0xFF op.aMask (op.bMask p) := by
  cases op
  case setBidiThreshold => exact mask_setBidiThreshold p
  all_goals simp only [Op.mask, Op.aMask, Op.bMask]; decide

theorem headerWord_and (opc opc' a a' : Byte) (b b' : BitVec 16) :
    headerWord opc a b &&& headerWord opc' a' b' = headerWord (opc &&& opc') (a &&& a') (b &&& b') := by
  change (b ++ a ++ opc : BitVec (16 + 8 + 8)) &&& (b' ++ a' ++ opc') = _
  rw [BitVec.and_append, BitVec.and_append]
  rfl

/-! ### No reserved bit of a well-formed operation's words is set (R103) -/

/-- R94-R98, R101: the `A` operand has only operand bits. -/
theorem aOperand_and_aMask (i : Instr) : i.aOperand &&& i.op.aMask = 0 := by
  cases i
  case setOvrDelta sel _ => cases sel <;> simp [Instr.aOperand, Instr.op, Op.aMask]
  case rxInit bidiEn => cases bidiEn <;> simp [Instr.aOperand, Instr.op, Op.aMask]
  all_goals simp [Instr.aOperand, Instr.op, Op.aMask]

/-- R98: a value of `DAC_BITS` bits has no bit in the part of `B` above them. -/
theorem and_highBits_eq_zero {v : BitVec 16} {k : Nat} (h : v.toNat < 2 ^ k) :
    v &&& BitVec.ofNat 16 (0xFFFF * 2 ^ k) = 0 := by
  apply BitVec.eq_of_getLsbD_eq
  intro i hi
  simp only [BitVec.getLsbD_and, BitVec.getLsbD_ofNat, Nat.testBit_mul_two_pow]
  by_cases hk : k ≤ i
  · have hv : v.getLsbD i = false :=
      Nat.testBit_lt_two_pow (h.trans_le (Nat.pow_le_pow_right (by decide) hk))
    simp [hv]
  · simp [hk]

/-- R94: INIT_TX's three flags are the low bits of `B`. -/
theorem initTx_flags_and_mask (bidi invert trig : Bool) :
    (0#13 ++ BitVec.ofBool trig ++ BitVec.ofBool invert ++ BitVec.ofBool bidi) &&& 0xFFF8#16 = 0 := by
  decide +revert

/-- R94, R98: the `B` operand has only operand bits. -/
theorem bOperand_and_bMask {p : Params} {i : Instr} (h : i.wf p = true) : i.bOperand &&& i.op.bMask p = 0 := by
  cases i
  case initTx _ bidi invert trig _ _ => exact initTx_flags_and_mask bidi invert trig
  case setBidiThreshold value => exact and_highBits_eq_zero (of_decide_eq_true h)
  all_goals simp [Instr.bOperand, Instr.op, Op.bMask]

theorem headerReservedSet_encode {p : Params} {i : Instr} (h : i.wf p = true) :
    headerReservedSet p i.op (headerWord i.op.code i.aOperand i.bOperand) = false := by
  have hc : i.op.code &&& 0xFF = i.op.code := BitVec.and_allOnes
  simp only [headerReservedSet, mask_eq_headerWord, headerWord_and, hc, aOperand_and_aMask, bOperand_and_bMask h,
    Op.matchWord, bne_self_eq_false]

/-- R95: PACKET's `A` field is its number of bytes. -/
theorem aOperand_packet_toNat {p : Params} {bytes : List Byte} (h : (Instr.packet bytes).wf p = true) :
    (Instr.packet bytes).aOperand.toNat = bytes.length := by
  have hl : bytes.length ≤ 255 := by simpa [Instr.wf] using h
  exact Nat.mod_eq_of_lt (by omega)

theorem payloadReservedSet_encode {p : Params} {i : Instr} (h : i.wf p = true) :
    payloadReservedSet p i.op (headerWord i.op.code i.aOperand i.bOperand) i.payload = false := by
  cases i
  case packet bytes =>
    simp [payloadReservedSet, Instr.op, Instr.payload, aOperand_packet_toNat h, unpackBytes_packBytes]
  case rxCapture ts => simpa [payloadReservedSet, Instr.op, Instr.payload, Instr.wf] using h
  all_goals rfl

/-! ### The operands read back (R94-R101) -/

/-- R94: bits 0, 1 and 2 of INIT_TX's `B` field are its flags. -/
theorem initTx_flags_getElem (bidi invert trig : Bool) :
    (0#13 ++ BitVec.ofBool trig ++ BitVec.ofBool invert ++ BitVec.ofBool bidi)[0] = bidi ∧
    (0#13 ++ BitVec.ofBool trig ++ BitVec.ofBool invert ++ BitVec.ofBool bidi)[1] = invert ∧
    (0#13 ++ BitVec.ofBool trig ++ BitVec.ofBool invert ++ BitVec.ofBool bidi)[2] = trig := by
  decide +revert

theorem operands_encode {p : Params} {i : Instr} (h : i.wf p = true) :
    i.op.operands (headerWord i.op.code i.aOperand i.bOperand) i.payload = i := by
  cases i
  case initTx np bidi invert trig bit1Us bit0Us =>
    have h1 : (bit0Us ++ bit1Us).extractLsb' 0 16 = bit1Us := BitVec.extractLsb'_append_eq_right
    have h0 : (bit0Us ++ bit1Us).extractLsb' 16 16 = bit0Us := BitVec.extractLsb'_append_eq_left
    simp only [Op.operands, Instr.op, Instr.payload, Instr.aOperand, Instr.bOperand, getLsbD_headerWord]
    simp [h1, h0, initTx_flags_getElem]
  case packet bytes =>
    simp [Op.operands, Instr.op, Instr.payload, aOperand_packet_toNat h, unpackBytes_packBytes]
  case setOvrMask mask =>
    have hm : mask.extractLsb' 32 32 ++ mask.extractLsb' 0 32 = mask := BitVec.extractLsb'_append_extractLsb'
    simp [Op.operands, Instr.op, Instr.payload, hm]
  case setOvrDelta sel delta =>
    cases sel <;> simp only [Op.operands, Instr.op, Instr.aOperand, getLsbD_headerWord] <;> rfl
  case rxInit bidiEn => cases bidiEn <;> simp only [Op.operands, Instr.op, Instr.aOperand, getLsbD_headerWord] <;> rfl
  all_goals simp [Op.operands, Instr.op, Instr.payload, Instr.aOperand, Instr.bOperand]

/-! ### The decoder on an encoding (R105, R107) -/

/-- R105: the length read from the header is the number of words of the encoding. -/
theorem words_encode {p : Params} {i : Instr} (h : i.wf p = true) :
    i.op.words i.aOperand = i.payload.length + 1 := by
  cases i
  case packet bytes => simp [Instr.op, Op.words, Instr.payload, aOperand_packet_toNat h, Nat.add_comm]
  all_goals rfl

/-- R105, R107: decoding the words of a well-formed operation, with any words behind them, gives the operation back. -/
theorem decode_encode_append {p : Params} {i : Instr} (h : i.wf p = true) (rest : List Word) :
    decode p i.port (encode i ++ rest) = .cmd i (encode i).length := by
  simp only [encode, List.cons_append, decode, Instr.port, ofHeader_headerWord, aField_headerWord, words_encode h]
  simp [headerReservedSet_encode h, payloadReservedSet_encode h, operands_encode h]

end Sys2Proof

namespace Sys2Proof.Machine

/-! ### The words and turns of the ports after a transaction is taken -/

@[simp] theorem Ports.words_passTurn (q : Ports) (port : Port) : q.passTurn.words port = q.words port := by
  cases port <;> rfl

@[simp] theorem Ports.turns_passTurn (q : Ports) : q.passTurn.turns = q.turns.tail := rfl

@[simp] theorem Ports.turns_consume (q : Ports) (port : Port) (n : Nat) : (q.consume port n).turns = q.turns := by
  cases port <;> rfl

@[simp] theorem Ports.words_consume_same (q : Ports) (port : Port) (n : Nat) :
    (q.consume port n).words port = (q.words port).drop n := by
  cases port <;> rfl

theorem Ports.words_consume_of_ne (q : Ports) {port r : Port} (h : r ≠ port) (n : Nat) :
    (q.consume port n).words r = q.words r := by
  cases port <;> cases r
  case host.event | event.host => rfl
  all_goals exact absurd rfl h

/-! ### A step whose port decodes to an operation (R8, R105) -/

/-- R8, R70: with a whole transaction on the port that has the turn, the step is its operation on the state in which its
words are consumed. -/
theorem step_of_fetch_cmd {s : State} {port : Port} {turns : List Port} {i : Instr} {n : Nat}
    (hv : s.params.valid = true) (ht : s.ports.turns = port :: turns) (hf : fetch s port = .cmd i n) :
    step s = exec i (consumed port n s) := by
  simp [step, hv, ht, hf]

/-- Settles O7: the decoder gives back the operation whose words wait on the port, so the step is `exec` of it on the state
with these words consumed. -/
theorem stepRunsDecodedTransaction : Obligations.StepRunsDecodedTransaction := by
  unfold Obligations.StepRunsDecodedTransaction
  intro s i rest turns hv hwf ht hw
  have hf : fetch s i.port = .cmd i (encode i).length := by
    rw [fetch, hw, decode_encode_append hwf]
  refine ⟨(s.ports.consume i.port (encode i).length).passTurn, ?_, ?_, ?_, step_of_fetch_cmd hv ht hf⟩
  · simp [hw]
  · simp [ht]
  · intro r hr
    simp [Ports.words_consume_of_ne _ hr]

end Sys2Proof.Machine
end

section
/-! SUPPORT. Where the fields of the packed registers stand (10_state.md R40-R59). -/

namespace Sys2Proof.Machine

/-- Placing a field above another, as a sum: the form in which `omega` compares a register with its layout. -/
theorem toNat_append_eq_add {m n : Nat} (x : BitVec m) (y : BitVec n) :
    (x ++ y).toNat = y.toNat + x.toNat * 2 ^ n := by
  rw [BitVec.toNat_append, ← Nat.shiftLeft_add_eq_or_of_lt y.isLt, Nat.shiftLeft_eq, Nat.add_comm]

/-- Settles O51: each packed register is a concatenation of its fields, so its value is the sum of their shifted values. -/
theorem transmitRegisterLayout : Obligations.TransmitRegisterLayout := by
  unfold Obligations.TransmitRegisterLayout
  refine ⟨by decide, by decide, by decide,
    fun s => ⟨_, _, _, _, rfl, rfl, rfl, rfl, ?ctrl, ?us, rfl, rfl, ?cursor, rfl, rfl, ?out⟩⟩
  case ctrl =>
    simp only [regTxCtrl, toNat_append_eq_add, BitVec.toNat_ofBool, BitVec.toNat_ofNat]
    omega
  case us => exact toNat_append_eq_add _ _
  case cursor =>
    simp only [regTxCursor, toNat_append_eq_add, BitVec.toNat_ofBool, BitVec.toNat_ofNat]
    omega
  case out =>
    simp only [regTxOut, toNat_append_eq_add, BitVec.toNat_ofBool, BitVec.toNat_ofNat]
    omega

/-- Settles O52: as O51; FAULT is the fault code widened. -/
theorem receiveRegisterLayout : Obligations.ReceiveRegisterLayout := by
  unfold Obligations.ReceiveRegisterLayout
  refine ⟨by decide, by decide, by decide, by decide,
    fun s => ⟨_, _, _, _, rfl, rfl, rfl, rfl, ?bidi, ?ctrl, ?acc, rfl, rfl, ?fault⟩⟩
  case bidi =>
    simp only [regBidiStatus, toNat_append_eq_add, BitVec.toNat_ofBool, BitVec.toNat_ofNat]
    omega
  case ctrl =>
    simp only [regRxCtrl, toNat_append_eq_add, BitVec.toNat_ofBool, BitVec.toNat_ofNat]
    omega
  case acc =>
    simp only [regRxAcc, toNat_append_eq_add, BitVec.toNat_ofNat]
    omega
  case fault => exact BitVec.toNat_setWidth_of_le (by decide)

end Sys2Proof.Machine
end

section
/-! SUPPORT. The zero tails of the buffers (20_memory.md R62) under the operations of the buffer space, and the
invariant taken apart into its transmit and its receive side. -/

namespace Sys2Proof.Machine

/-! ### What the constraints of R5 give -/

section
variable {p : Params} (hp : p.valid = true)
include hp

theorem arrMax_lt_two_pow : p.arrMax < 2 ^ 32 := by
  simp only [Params.valid, decide_eq_true_eq] at hp
  omega

theorem pktCapacity_le_packetRegion : p.pktCapacity ≤ packetRegion := by
  simp only [Params.valid, decide_eq_true_eq] at hp
  change p.pktCapacity ≤ 32
  omega

theorem rxCapacity_le_packetRegion : p.rxCapacity ≤ packetRegion := by
  simp only [Params.valid, decide_eq_true_eq] at hp
  change p.rxCapacity ≤ 32
  omega

theorem txPreambleMin_pos : 1 ≤ p.txPreambleMin := by
  simp only [Params.valid, decide_eq_true_eq] at hp
  omega

theorem idlePacket_length_range : 1 ≤ p.idlePacket.length ∧ p.idlePacket.length ≤ p.pktCapacity := by
  simp only [Params.valid, decide_eq_true_eq] at hp
  omega

end

/-! ### Zero tails -/

/-- Every byte of the region `base .. base + size - 1` at or past `len` is zero (R62). -/
def ZeroTail (m : Memory) (base size len : Nat) : Prop := ∀ i < size, len ≤ i → m.read (base + i) = 0

/-- A fill changes no byte outside its region. -/
theorem Memory.read_fill_outside {m : Memory} (hw : m.wf = true) {dst n : Nat} (f : Nat → Byte) {a : Nat}
    (hm : dst + n ≤ bufferTop + 1) (ha : ¬ InRegion dst n a) : (m.fill dst n f).read a = m.read a := by
  exact (Memory.read_fill hw _ _ _ _ hm).trans (if_neg ha)

/-- A write changes no other byte. -/
theorem Memory.read_write_of_ne {m : Memory} (hw : m.wf = true) {a b : Nat} (v : Byte) (h : b ≠ a) :
    (m.write a v).read b = m.read b := by
  rw [Memory.read_write hw, if_neg fun e => h e.1]

/-- The same bytes, wherever they stand, make the same list. -/
theorem Memory.bytes_congr {m m' : Memory} {base base' len : Nat}
    (h : ∀ i < len, m'.read (base' + i) = m.read (base + i)) : m'.bytes base' len = m.bytes base len :=
  List.map_congr_left fun i hi => h i (List.mem_range.mp hi)

section
variable {m : Memory} {base size len : Nat}

theorem ZeroTail.congr {m' : Memory} (h : ZeroTail m base size len)
    (hm : ∀ i < size, m'.read (base + i) = m.read (base + i)) : ZeroTail m' base size len :=
  fun i hi hl => (hm i hi).trans (h i hi hl)

/-- The zero tail of a part `dst + off ..` of a region whose bytes stay. -/
theorem ZeroTail.congr_within {m' : Memory} {dst n off : Nat} (h : ZeroTail m (dst + off) size len)
    (hn : off + size ≤ n) (hm : ∀ a, InRegion dst n a → m'.read a = m.read a) : ZeroTail m' (dst + off) size len :=
  h.congr fun i hi => hm _ ⟨by omega, by omega⟩

/-- A fill of another region keeps a zero tail. -/
theorem ZeroTail.fill_disjoint (h : ZeroTail m base size len) (hw : m.wf = true) {dst n : Nat} (f : Nat → Byte)
    (hm : dst + n ≤ bufferTop + 1) (hd : base + size ≤ dst ∨ dst + n ≤ base) :
    ZeroTail (m.fill dst n f) base size len :=
  h.congr fun i hi => Memory.read_fill_outside hw f hm fun hin => by
    obtain ⟨h1, h2⟩ := hin
    omega

/-- A part `dst + off ..` of a filled region has the zero tail of what is filled in. -/
theorem zeroTail_fill (hw : m.wf = true) {dst n off : Nat} {f : Nat → Byte} (hm : dst + n ≤ bufferTop + 1)
    (hn : off + size ≤ n) (hf : ∀ i < size, len ≤ i → f (off + i) = 0) :
    ZeroTail (m.fill dst n f) (dst + off) size len := by
  intro i hi hl
  rw [Memory.read_fill hw _ _ _ _ hm, if_pos (by omega), Nat.add_assoc, Nat.add_sub_cancel_left]
  exact hf i hi hl

/-- A byte stored at the end of the recorded length, and the length one more. -/
theorem ZeroTail.write_end (h : ZeroTail m base size len) (hw : m.wf = true) (v : Byte) :
    ZeroTail (m.write (base + len) v) base size (len + 1) := fun i hi hl => by
  rw [Memory.read_write_of_ne hw v (by omega)]
  exact h i hi (by omega)

/-- A byte stored outside the region keeps its zero tail. -/
theorem ZeroTail.write_outside (h : ZeroTail m base size len) (hw : m.wf = true) {a : Nat} (v : Byte)
    (ha : ¬ InRegion base size a) : ZeroTail (m.write a v) base size len :=
  h.congr fun i hi => Memory.read_write_of_ne hw v fun e => ha ⟨by omega, by omega⟩

/-- R62 says it of the bytes past the capacity too; a length within the capacity makes that the same. -/
theorem zeroTail_iff_of_le_capacity {cap : Nat} (h : len ≤ cap) :
    (∀ i < size, len ≤ i ∨ cap ≤ i → m.read (base + i) = 0) ↔ ZeroTail m base size len :=
  ⟨fun ht i hi hl => ht i hi (.inl hl), fun ht i hi hl => ht i hi (by omega)⟩

end

/-- R62, the transmit side: MBOX, ACT, and the channels of BRAW and BSNAP. -/
structure TxTails (m : Memory) (mboxLen actLen : Byte) (b : Bidi) : Prop where
  mbox : ZeroTail m mboxBase packetRegion mboxLen.toNat
  act : ZeroTail m actBase packetRegion actLen.toNat
  braw1 : ZeroTail m brawBase ch1Bytes b.n1.toNat
  braw2 : ZeroTail m (brawBase + ch1Bytes) ch2Bytes b.n2.toNat
  bsnap1 : ZeroTail m bsnapBase ch1Bytes b.sn1.toNat
  bsnap2 : ZeroTail m (bsnapBase + ch1Bytes) ch2Bytes b.sn2.toNat

/-- R62, the receive side: RXB and RXR. -/
structure RxTails (m : Memory) (n readyLen : Byte) : Prop where
  rxb : ZeroTail m rxbBase packetRegion n.toNat
  rxr : ZeroTail m rxrBase packetRegion readyLen.toNat

/-! ### The two sides of the invariant -/

theorem RxOk.readyLen_le {p : Params} {rx : Rx} (h : RxOk p rx) : rx.readyLen.toNat ≤ p.rxCapacity := by
  rcases h.readyLen with h0 | ⟨-, hle⟩
  · simp [h0]
  · exact hle

/-- With the lengths within the capacities, the zero tails are those of the two sides. -/
theorem tailsZero_iff {s : State} (ht : TxOk s.params s.tx) (hr : RxOk s.params s.rx) :
    TailsZero s ↔ TxTails s.mem s.tx.mboxLen s.tx.actLen s.bidi ∧ RxTails s.mem s.rx.n s.rx.readyLen := by
  have hmbox := @zeroTail_iff_of_le_capacity s.mem mboxBase packetRegion _ _ ht.mboxLen
  have hact := @zeroTail_iff_of_le_capacity s.mem actBase packetRegion _ _ ht.actLen
  have hrxb := @zeroTail_iff_of_le_capacity s.mem rxbBase packetRegion _ _ hr.n
  have hrxr := @zeroTail_iff_of_le_capacity s.mem rxrBase packetRegion _ _ hr.readyLen_le
  constructor
  · intro h
    exact ⟨⟨hmbox.mp h.mbox, hact.mp h.act, h.braw1, h.braw2, h.bsnap1, h.bsnap2⟩,
      ⟨hrxb.mp h.rxb, hrxr.mp h.rxr⟩⟩
  · rintro ⟨h, h'⟩
    exact ⟨hmbox.mpr h.mbox, hact.mpr h.act, hrxb.mpr h'.rxb, hrxr.mpr h'.rxr, h.braw1, h.braw2, h.bsnap1,
      h.bsnap2⟩

theorem Inv.txTails {s : State} (h : Inv s) : TxTails s.mem s.tx.mboxLen s.tx.actLen s.bidi :=
  ((tailsZero_iff h.tx h.rx).mp h.tails).1

theorem Inv.rxTails {s : State} (h : Inv s) : RxTails s.mem s.rx.n s.rx.readyLen :=
  ((tailsZero_iff h.tx h.rx).mp h.tails).2

/-- R60: no buffer address belongs to both sides. -/
theorem not_rxAddress_of_txAddress {a : Nat} (h : TxAddress a) : ¬ RxAddress a := by
  simp only [TxAddress, RxAddress, InRegion, mboxBase, actBase, rxbBase, rxrBase, brawBase, bsnapBase, packetRegion,
    bidiRegion] at *
  omega

theorem TxTails.congr {m m' : Memory} {l n : Byte} {b : Bidi} (h : TxTails m l n b)
    (hm : ∀ a, TxAddress a → m'.read a = m.read a) : TxTails m' l n b where
  mbox := h.mbox.congr_within (off := 0) (by decide) fun a ha => hm a (.inl ha)
  act := h.act.congr_within (off := 0) (by decide) fun a ha => hm a (.inr (.inl ha))
  braw1 := h.braw1.congr_within (off := 0) (by decide) fun a ha => hm a (.inr (.inr (.inl ha)))
  braw2 := h.braw2.congr_within (by decide) fun a ha => hm a (.inr (.inr (.inl ha)))
  bsnap1 := h.bsnap1.congr_within (off := 0) (by decide) fun a ha => hm a (.inr (.inr (.inr ha)))
  bsnap2 := h.bsnap2.congr_within (by decide) fun a ha => hm a (.inr (.inr (.inr ha)))

theorem RxTails.congr {m m' : Memory} {n l : Byte} (h : RxTails m n l)
    (hm : ∀ a, RxAddress a → m'.read a = m.read a) : RxTails m' n l where
  rxb := h.rxb.congr_within (off := 0) (by decide) fun a ha => hm a (.inl ha)
  rxr := h.rxr.congr_within (off := 0) (by decide) fun a ha => hm a (.inr ha)

/-- R64: the ready slot's checksum depends on its bytes and its length only. -/
theorem ReadyChecksum.congr {s t : State} (h : ReadyChecksum s) (hl : t.rx.readyLen = s.rx.readyLen)
    (hle : s.rx.readyLen.toNat ≤ packetRegion)
    (hm : ∀ a, InRegion rxrBase packetRegion a → t.mem.read a = s.mem.read a) : ReadyChecksum t := by
  unfold ReadyChecksum
  rw [hl, Memory.bytes_congr fun i hi => hm _ ⟨by omega, by omega⟩]
  exact h

theorem Inv.readyLen_le {s : State} (h : Inv s) : s.rx.readyLen.toNat ≤ packetRegion :=
  h.rx.readyLen_le.trans (rxCapacity_le_packetRegion h.params)

/-- A change of FAULT, the override, the ports or the outputs alone keeps the invariant. -/
theorem Inv.of_same {s t : State} (h : Inv s) (hp : t.params = s.params) (htx : t.tx = s.tx) (hb : t.bidi = s.bidi)
    (hrx : t.rx = s.rx) (hm : t.mem = s.mem) (hf : t.fault.toNat ≤ 7) : Inv t := by
  obtain ⟨p, tx, ovr, bidi, rx, fault, mem, ports, out⟩ := t
  subst hp htx hb hrx hm
  obtain ⟨hmbox, hact, hrxb, hrxr, hb1, hb2, hs1, hs2⟩ := h.tails
  exact ⟨h.params, h.mem, ⟨hmbox, hact, hrxb, hrxr, hb1, hb2, hs1, hs2⟩, h.tx, h.bidi, h.rx, h.checksum, hf⟩

/-- A change of the transmit side alone keeps the invariant if it keeps that side's part. -/
theorem Inv.of_tx {s t : State} (h : Inv s) (hp : t.params = s.params) (hrx : t.rx = s.rx) (hf : t.fault = s.fault)
    (hw : t.mem.wf = true) (hm : SameMemoryOutside TxAddress s t)
    (htails : TxTails t.mem t.tx.mboxLen t.tx.actLen t.bidi) (htx : TxOk s.params t.tx) (hb : BidiOk s.params t.bidi) :
    Inv t := by
  rw [← hp] at htx hb
  have hrxOk : RxOk t.params t.rx := by
    rw [hp, hrx]
    exact h.rx
  have hsame : ∀ a, RxAddress a → t.mem.read a = s.mem.read a :=
    fun a ha => hm a fun ht => not_rxAddress_of_txAddress ht ha
  refine ⟨hp ▸ h.params, hw, (tailsZero_iff htx hrxOk).mpr ⟨htails, ?_⟩, htx, hb, hrxOk, ?_, hf ▸ h.fault⟩
  · rw [hrx]
    exact h.rxTails.congr hsame
  · exact h.checksum.congr (by rw [hrx]) h.readyLen_le fun a ha => hsame a (.inr ha)

/-- A change of the receive side alone keeps the invariant if it keeps that side's part. -/
theorem Inv.of_rx {s t : State} (h : Inv s) (hf : RxFrame s t) (hw : t.mem.wf = true)
    (hm : SameMemoryOutside RxAddress s t) (htails : RxTails t.mem t.rx.n t.rx.readyLen) (hrx : RxOk s.params t.rx)
    (hc : ReadyChecksum t) : Inv t := by
  obtain ⟨hp, htx, -, hb, hfault, -, -⟩ := hf
  have htxOk : TxOk t.params t.tx := by
    rw [hp, htx]
    exact h.tx
  rw [← hp] at hrx
  refine ⟨hp ▸ h.params, hw, (tailsZero_iff htxOk hrx).mpr ⟨?_, htails⟩, htxOk, ?_, hrx, hc, hfault ▸ h.fault⟩
  · rw [htx, hb]
    exact h.txTails.congr fun a ha => hm a (not_rxAddress_of_txAddress ha)
  · rw [hp, hb]
    exact h.bidi

/-! ### The outcomes of a step and the ports -/

theorem FaultCode.code_le_seven (c : FaultCode) : c.code.toNat ≤ 7 := by cases c <;> decide

section
variable {s : State} (h : Inv s)
include h

theorem inv_finish : Inv (finish s) := h.of_same rfl rfl rfl rfl rfl h.fault
theorem inv_respond (ws : List Word) : Inv (respond ws s) := h.of_same rfl rfl rfl rfl rfl h.fault
theorem inv_noStep : Inv (noStep s) := h.of_same rfl rfl rfl rfl rfl h.fault
theorem inv_await : Inv (await s) := h.of_same rfl rfl rfl rfl rfl h.fault
theorem inv_consumed (port : Port) (n : Nat) : Inv (consumed port n s) := h.of_same rfl rfl rfl rfl rfl h.fault
theorem inv_turnPassed : Inv (turnPassed s) := h.of_same rfl rfl rfl rfl rfl h.fault
theorem inv_setOvr (o : Ovr) : Inv { s with ovr := o } := h.of_same rfl rfl rfl rfl rfl h.fault

/-- R330, R331: FAULT keeps a code of the list. -/
theorem inv_raise (c : FaultCode) : Inv (raise c s) := by
  refine h.of_same rfl rfl rfl rfl rfl ?_
  rw [raise_fault]
  split
  · exact c.code_le_seven
  · exact h.fault

end

end Sys2Proof.Machine
end

section
/-! SUPPORT. Every operation of the receive engine keeps the invariant (42_rx_engine.md R201-R209). -/

namespace Sys2Proof.Machine

/-! ### The receive engine's fields -/

/-- R202: after an edge the timestamp is valid. -/
theorem RxOk.recordEdge {p : Params} {rx : Rx} (h : RxOk p rx) {ts : Word} (hts : ts.toNat < 2 ^ p.capBits) :
    RxOk p { rx with lastTs := ts, tsValid := true } :=
  { h with lastTs := hts, noEdge := nofun }

/-- R207: back to hunting, with no bit and no byte taken. -/
theorem RxOk.huntReset {p : Params} {rx : Rx} (h : RxOk p rx) :
    RxOk p { rx with st := .hunt, h := 0, first := .none, bitcnt := 0, acc := 0, n := 0 } :=
  { h with
    h := Nat.zero_le _
    locked := fun hst => absurd rfl hst
    idle := fun _ => ⟨rfl, rfl, rfl, rfl⟩
    bitcnt := Nat.zero_le _
    byteDone := nofun
    n := Nat.zero_le _
    noEdge := fun hv => ⟨(h.noEdge hv).1, rfl, rfl⟩ }

/-- R203: a ONE half counted while hunting; the count saturates at H. -/
theorem RxOk.countOne {p : Params} {rx : Rx} (h : RxOk p rx) (hv : rx.tsValid = true) (hst : rx.st = .hunt) :
    RxOk p { rx with h := BitVec.ofNat 8 (min (rx.h.toNat + 1) (huntGoal p)) } := by
  have hle : (BitVec.ofNat 8 (min (rx.h.toNat + 1) (huntGoal p))).toNat ≤ huntGoal p :=
    (Nat.mod_le _ _).trans (min_le_right _ _)
  exact { h with
    h := hle
    locked := fun hne => absurd hst hne
    noEdge := fun hf => by simp [hv] at hf }

/-- R203: the start bit's first half, after a whole preamble. -/
theorem RxOk.lock {p : Params} {rx : Rx} (h : RxOk p rx) (hv : rx.tsValid = true) (hst : rx.st = .hunt)
    (hg : huntGoal p ≤ rx.h.toNat) : RxOk p { rx with st := .start2 } :=
  { h with
    locked := fun _ => le_antisymm h.h hg
    idle := fun _ => h.idle (by simp [hst])
    noEdge := fun hf => by simp [hv] at hf }

/-- R203: a ZERO half before the preamble is whole. -/
theorem RxOk.restartCount {p : Params} {rx : Rx} (h : RxOk p rx) (hst : rx.st = .hunt) : RxOk p { rx with h := 0 } :=
  { h with
    h := Nat.zero_le _
    locked := fun hne => absurd hst hne
    noEdge := fun hf => ⟨(h.noEdge hf).1, hst, rfl⟩ }

/-- R204: the start bit is complete. -/
theorem RxOk.beginData {p : Params} {rx : Rx} (h : RxOk p rx) (hv : rx.tsValid = true) (hst : rx.st = .start2) :
    RxOk p { rx with st := .data, first := .none, bitcnt := 0, acc := 0, n := 0 } :=
  { h with
    locked := fun _ => h.locked (by simp [hst])
    idle := fun hne => absurd rfl hne
    bitcnt := Nat.zero_le _
    byteDone := nofun
    n := Nat.zero_le _
    noEdge := fun hf => by simp [hv] at hf }

/-- R205: within a packet the bit in progress may change and a byte may be stored; after a byte's eighth bit the byte has
been stored, and a first half that stays is ZERO. -/
theorem RxOk.inData {p : Params} {rx : Rx} (h : RxOk p rx) (hst : rx.st = .data) {first : FirstHalf} {bitcnt : BitVec 4}
    {acc n : Byte} (hb : bitcnt.toNat ≤ 8) (hd : bitcnt = 8 → 1 ≤ n.toNat ∧ first ≠ .one) (hn : n.toNat ≤ p.rxCapacity) :
    RxOk p { rx with first := first, bitcnt := bitcnt, acc := acc, n := n } :=
  { h with
    idle := fun hne => absurd hst hne
    bitcnt := hb
    byteDone := hd
    n := hn }

/-- R206: a packet of at least two bytes goes to the ready slot. -/
theorem RxOk.fillReady {p : Params} {rx : Rx} (h : RxOk p rx) (hn : 2 ≤ rx.n.toNat) :
    RxOk p { rx with readyLen := rx.n, ready := true } :=
  { h with
    readyLen := .inr ⟨hn, h.n⟩
    ready := fun _ h0 => by
      simp only at h0
      simp [h0] at hn }

theorem capMod_lt (p : Params) (t : Nat) : (capMod p t).toNat < 2 ^ p.capBits :=
  (Nat.mod_le _ _).trans_lt (Nat.mod_lt _ (Nat.two_pow_pos _))

/-- R206: the one-shot of a receiver with `bidi_en` is armed. -/
theorem RxOk.arm {p : Params} {rx : Rx} (h : RxOk p rx) (he : rx.bidiEn = true) (t : Nat) :
    RxOk p { rx with os := .armedCh1, osRef := capMod p t, win := .none } :=
  { h with
    osRef := capMod_lt p t
    disabled := fun hf => by simp [he] at hf
    window := ⟨fun _ => rfl, nofun, nofun⟩ }

/-! ### The memory of the receive side -/

/-- R60: RXB and RXR do not overlap. -/
theorem not_rxb_of_rxr {a : Nat} (h : InRegion rxrBase packetRegion a) : ¬ InRegion rxbBase packetRegion a := by
  simp only [InRegion, rxrBase, rxbBase, packetRegion] at *
  omega

section
variable {s : State} (h : Inv s)
include h

/-- A change of the receive engine's fields alone, with the two lengths kept. -/
theorem Inv.withRx {r : Rx} (hr : RxOk s.params r) (hn : r.n = s.rx.n) (hl : r.readyLen = s.rx.readyLen) :
    Inv { s with rx := r } :=
  h.of_rx ⟨rfl, rfl, rfl, rfl, rfl, rfl, rfl⟩ h.mem (fun _ _ => rfl) (by simpa only [hn, hl] using h.rxTails) hr
    (h.checksum.congr hl h.readyLen_le fun _ _ => rfl)

/-- RXB is cleared, and the ready slot's length is kept. -/
theorem Inv.clearRxb {r : Rx} (hr : RxOk s.params r) (hl : r.readyLen = s.rx.readyLen) :
    Inv { s with rx := r, mem := s.mem.clear rxbBase packetRegion } := by
  refine h.of_rx ⟨rfl, rfl, rfl, rfl, rfl, rfl, rfl⟩ (Memory.clear_wf h.mem _ _) (fun a ha => ?_) ⟨?_, ?_⟩ hr ?_
  · exact Memory.read_fill_outside h.mem _ (by decide) fun hin => ha (.inl hin)
  · exact zeroTail_fill (off := 0) h.mem (by decide) (by decide) fun _ _ _ => rfl
  · rw [hl]
    exact h.rxTails.rxr.fill_disjoint h.mem _ (by decide) (by decide)
  · exact h.checksum.congr hl h.readyLen_le fun a ha =>
      Memory.read_fill_outside h.mem _ (by decide) (not_rxb_of_rxr ha)

/-! ### The framing steps -/

theorem inv_recordEdge {ts : Word} (hts : ts.toNat < 2 ^ s.params.capBits) : Inv (recordEdge ts s) :=
  h.withRx (h.rx.recordEdge hts) rfl rfl

theorem inv_huntReset : Inv (huntReset s) := h.clearRxb h.rx.huntReset rfl

theorem inv_huntStep (hv : s.rx.tsValid = true) (hst : s.rx.st = .hunt) (one : Bool) : Inv (huntStep one s) := by
  unfold huntStep
  split
  · exact h.withRx (h.rx.countOne hv hst) rfl rfl
  · split
    · rename_i hg
      exact h.withRx (h.rx.lock hv hst hg) rfl rfl
    · exact h.withRx (h.rx.restartCount hst) rfl rfl

theorem inv_start2Step (hv : s.rx.tsValid = true) (hst : s.rx.st = .start2) (one : Bool) : Inv (start2Step one s) := by
  unfold start2Step
  split
  · exact inv_huntReset h
  · exact h.clearRxb (h.rx.beginData hv hst) rfl

/-- R206: an accepted packet has a valid checksum, and RXR gets RXB's zero tail with its bytes. -/
theorem inv_fillReady (ha : rxAccepts s = true) : Inv (fillReady s) := by
  obtain ⟨hn, hx⟩ := of_decide_eq_true ha
  have hle : s.rx.n.toNat ≤ packetRegion := h.rx.n.trans (rxCapacity_le_packetRegion h.params)
  refine h.of_rx ⟨rfl, rfl, rfl, rfl, rfl, rfl, rfl⟩ (Memory.copy_wf h.mem _ _ _) (fun a ha => ?_) ⟨?_, ?_⟩
    (h.rx.fillReady hn) fun _ => ?_
  · exact Memory.read_fill_outside h.mem _ (by decide) fun hin => ha (.inr hin)
  · exact h.rxTails.rxb.fill_disjoint h.mem _ (by decide) (by decide)
  · refine zeroTail_fill (off := 0) h.mem (by decide) (by decide) fun i hi hl => ?_
    simpa using h.rxTails.rxb i hi hl
  · have hbytes : (s.mem.copy rxbBase rxrBase packetRegion).bytes rxrBase s.rx.n.toNat =
        s.mem.bytes rxbBase s.rx.n.toNat := by
      refine Memory.bytes_congr fun i hi => ?_
      rw [Memory.read_copy h.mem _ _ _ _ (by decide), if_pos (by omega), Nat.add_sub_cancel_left]
    simp only [fillReady_mem, fillReady_rx, hbytes]
    refine (validChecksum_iff fun hnil => ?_).mpr hx
    have := congrArg List.length hnil
    simp [Memory.bytes] at this
    simp [this] at hn

theorem inv_armOneShot (ts : Word) (t : Nat) : Inv (armOneShot ts t s) := by
  unfold armOneShot
  split
  · rename_i he
    exact h.withRx (h.rx.arm he _) rfl rfl
  · exact h

theorem inv_packetEnd (ts : Word) (t : Nat) : Inv (packetEnd ts t s) := by
  unfold packetEnd
  split
  · rename_i ha
    exact inv_huntReset (inv_armOneShot (inv_fillReady h ha) ts t)
  · exact inv_huntReset h

/-- R205: the eighth bit completes a byte, which is stored at the end of RXB. -/
theorem inv_storeByte (hst : s.rx.st = .data) {first : FirstHalf} {bitcnt : BitVec 4} {acc : Byte}
    (hb : bitcnt.toNat ≤ 8) (hf : first ≠ .one) (hn : s.rx.n.toNat ≠ s.params.rxCapacity) :
    Inv { s with
      mem := s.mem.write (rxStoreAddr s) acc
      rx := { s.rx with first := first, bitcnt := bitcnt, acc := acc, n := s.rx.n + 1 } } := by
  have hcap := rxCapacity_le_packetRegion h.params
  have h32 : packetRegion = 32 := rfl
  have hle := h.rx.n
  have hsucc : (s.rx.n + 1).toNat = s.rx.n.toNat + 1 := BitVec.toNat_add_of_lt (y := 1) (by simp; omega)
  have haddr : InRegion rxbBase packetRegion (rxStoreAddr s) := ⟨Nat.le_add_right _ _, by unfold rxStoreAddr; omega⟩
  refine h.of_rx ⟨rfl, rfl, rfl, rfl, rfl, rfl, rfl⟩ (Memory.write_wf h.mem _ _) (fun a ha => ?_) ⟨?_, ?_⟩
    (h.rx.inData hst hb (fun _ => ⟨by omega, hf⟩) (by omega)) ?_
  · exact Memory.read_write_of_ne h.mem _ fun e => ha (.inl (e ▸ haddr))
  · rw [hsucc]
    exact h.rxTails.rxb.write_end h.mem _
  · exact h.rxTails.rxr.write_outside h.mem _ fun hin => not_rxb_of_rxr hin haddr
  · exact h.checksum.congr rfl h.readyLen_le fun a ha =>
      Memory.read_write_of_ne h.mem _ fun e => not_rxb_of_rxr ha (e ▸ haddr)

theorem inv_takeBit (hst : s.rx.st = .data) (hb : s.rx.bitcnt ≠ 8) {one : Bool} {t : State}
    (ht : takeBit one s = .ok t) : Inv t := by
  have hle := h.rx.bitcnt
  have hne : s.rx.bitcnt.toNat ≠ 8 := fun e => hb (BitVec.eq_of_toNat_eq e)
  have hsucc : (s.rx.bitcnt + 1).toNat = s.rx.bitcnt.toNat + 1 := BitVec.toNat_add_of_lt (y := 1) (by simp; omega)
  simp only [takeBit, storeByte] at ht
  split at ht
  · split at ht
    · cases ht
      change Inv (huntReset s)
      exact inv_huntReset h
    · rename_i hn
      split at ht
      · cases ht
        exact inv_storeByte h hst (by omega) nofun hn
      · cases ht
  · rename_i h8
    cases ht
    exact h.withRx (h.rx.inData hst (by omega) (fun e => absurd e h8) h.rx.n) rfl rfl

theorem inv_dataStep (hst : s.rx.st = .data) {one : Bool} {ts : Word} {d : Nat} {t : State}
    (ht : dataStep one ts d s = .ok t) : Inv t := by
  unfold dataStep at ht
  repeat' split at ht
  · cases ht
    exact inv_packetEnd h ts d
  · cases ht
  · rename_i hsep
    cases ht
    have hzero : s.rx.bitcnt = 8 → firstOf one ≠ .one := fun h8 => by
      cases one
      · nofun
      · exact absurd ⟨h8, rfl⟩ hsep
    exact h.withRx (h.rx.inData hst h.rx.bitcnt (fun h8 => ⟨(h.rx.byteDone h8).1, hzero h8⟩) h.rx.n) rfl rfl
  · cases ht
    exact inv_huntReset h
  · cases ht
    exact h.withRx (h.rx.inData hst (by decide) nofun h.rx.n) rfl rfl
  · exact inv_takeBit h hst ‹_› ht

theorem inv_frameStep (hv : s.rx.tsValid = true) {one : Bool} {ts : Word} {d : Nat} {t : State}
    (ht : frameStep one ts d s = .ok t) : Inv t := by
  unfold frameStep at ht
  split at ht
  · rename_i hst
    cases ht
    exact inv_huntStep h hv hst one
  · rename_i hst
    cases ht
    exact inv_start2Step h hv hst one
  · rename_i hst
    exact inv_dataStep h hst ht

theorem inv_captureStep {ts : Word} (hts : ts.toNat < 2 ^ s.params.capBits) {t : State}
    (ht : captureStep ts s = .ok t) : Inv t := by
  have he := inv_recordEdge h hts
  rcases captureStep_cases ht with ⟨-, rfl⟩ | ⟨-, -, rfl⟩ | ⟨one, -, -, hf⟩
  · exact he
  · exact inv_huntReset he
  · exact inv_frameStep he rfl hf

/-! ### The operations -/

theorem inv_rxRestart (bidiEn : Bool) : Inv (rxRestart bidiEn s) := by
  have hw := Memory.clear_wf h.mem rxbBase packetRegion
  refine h.of_rx ⟨rfl, rfl, rfl, rfl, rfl, rfl, rfl⟩ (Memory.clear_wf hw _ _) (fun a ha => ?_) ⟨?_, ?_⟩ ?_
    fun h0 => absurd rfl h0
  · exact (Memory.read_fill_outside hw _ (by decide) fun hin => ha (.inr hin)).trans
      (Memory.read_fill_outside h.mem _ (by decide) fun hin => ha (.inl hin))
  · exact (zeroTail_fill (off := 0) h.mem (by decide) (by decide) fun _ _ _ => rfl).fill_disjoint hw _ (by decide)
      (by decide)
  · exact zeroTail_fill (off := 0) hw (by decide) (by decide) fun _ _ _ => rfl
  · rw [rxRestart_rx]
    constructor <;> simp [Rx.reset]

theorem inv_rxTake {t : State} (ht : execRxTake s = .next t) : Inv t := by
  rcases execRxTake_next ht with ⟨-, rfl⟩ | ⟨-, rfl⟩
  · exact inv_respond h _
  · exact inv_respond (h.withRx (r := { s.rx with ready := false }) { h.rx with ready := fun hr => by cases hr }
      rfl rfl) _

theorem inv_rxCapture {ts : Word} {t : State} (ht : execRxCapture ts s = .next t) : Inv t := by
  rcases execRxCapture_next ht with ⟨-, rfl⟩ | ⟨hts, s', hs, rfl⟩
  · exact inv_raise h _
  · exact inv_finish (inv_captureStep h hts hs)

/-- R209: the one-shot opens the window of channel 1, then that of channel 2; it is armed only with `bidi_en`. -/
theorem inv_rxBidiFire {t : State} (ht : execRxBidiFire s = .next t) : Inv t := by
  have hen : s.rx.os ≠ .idle → s.rx.bidiEn ≠ false := fun ho he => ho (h.rx.disabled he).1
  rcases execRxBidiFire_next ht with ⟨-, rfl⟩ | ⟨ho, rfl⟩ | ⟨ho, rfl⟩
  · exact inv_noStep h
  · exact inv_finish (h.withRx { h.rx with
      disabled := fun he => absurd he (hen (by simp [ho]))
      window := ⟨nofun, fun _ => rfl, nofun⟩ } rfl rfl)
  · exact inv_finish (h.withRx { h.rx with
      disabled := fun he => absurd he (hen (by simp [ho]))
      window := ⟨nofun, nofun, fun _ => nofun⟩ } rfl rfl)

end

end Sys2Proof.Machine
end

section
/-! SUPPORT. Every operation of the transmit engine and of the command-station return channel keeps the invariant
(41_tx_engine.md R154-R162, 43_bidi.md R250-R254). -/

namespace Sys2Proof.Machine

/-! ### The slot after the cursor's -/

/-- R152, R162: where a Running engine's cursor goes: to the next slot, and at the end of the frame to the first. -/
def followingSlot (cfg : TxCfg) (actLen : Byte) (c : Cursor) : Cursor := (nextSlot cfg actLen c).getD .first

/-- R154: a slot whose emission drives the track and toggles the polarity. -/
abbrev Cursor.onTrack (c : Cursor) : Prop := c.phase = .preamble ∨ c.phase = .data

theorem cursorOk_first {cfg : TxCfg} (n : Byte) (h : 1 ≤ cfg.np.toNat) : CursorOk cfg n .first := ⟨rfl, h⟩

theorem CfgOk.np_pos {p : Params} {cfg : TxCfg} (h : CfgOk p cfg) (hp : p.valid = true) : 1 ≤ cfg.np.toNat :=
  (txPreambleMin_pos hp).trans h.npMin

section
variable {cfg : TxCfg} {n : Byte} {c : Cursor}

theorem followingSlot_ok (hnp : 1 ≤ cfg.np.toNat) (hn : n.toNat ≤ packetRegion) (hc : CursorOk cfg n c) :
    CursorOk cfg n (followingSlot cfg n c) := by
  unfold followingSlot
  cases h : nextSlot cfg n c with
  | none => exact cursorOk_first n hnp
  | some c' => exact nextSlot_ok hn hc h

theorem followingSlot_of_firstHalf (ht : c.onTrack) (hh : c.half = false) :
    followingSlot cfg n c = { c with half := true } := by
  obtain ⟨ph, j, k, hf⟩ := c
  obtain rfl : hf = false := hh
  rcases ht with rfl | rfl <;> rfl

/-- R150, R152: after the second half of a bit comes a first half or BiDiStart. -/
theorem followingSlot_of_secondHalf (ht : c.onTrack) (hh : c.half = true) :
    (followingSlot cfg n c).half = false ∧
    ((followingSlot cfg n c).onTrack ∨ (followingSlot cfg n c).phase = .bidiStart) := by
  have hne : ¬ c.half = false := by simp [hh]
  unfold followingSlot nextSlot
  rcases ht with h | h <;> rw [h] <;> simp only [if_neg hne]
  · split
    · exact ⟨rfl, .inl (.inl rfl)⟩
    · exact ⟨rfl, .inl (.inr rfl)⟩
  · split
    · split
      · exact ⟨rfl, .inr rfl⟩
      · exact ⟨rfl, .inl (.inl rfl)⟩
    · split <;> exact ⟨rfl, .inl (.inr rfl)⟩

/-- R154: before a slot on the track and before BiDiStart no cutout has begun. -/
theorem not_inCutout {c : Cursor} (h : c.onTrack ∨ c.phase = .bidiStart) :
    c.phase.inCutout = false ∧ c.phase.armed = .none := by
  rcases h with (h | h) | h <;> rw [h] <;> exact ⟨rfl, rfl⟩

/-- R150, R152: after a slot on the track the cutout has not begun. -/
theorem followingSlot_not_inCutout (ht : c.onTrack) :
    (followingSlot cfg n c).phase.inCutout = false ∧ (followingSlot cfg n c).phase.armed = .none := by
  cases hh : c.half
  · rw [followingSlot_of_firstHalf ht hh]
    exact not_inCutout (.inl ht)
  · exact not_inCutout (followingSlot_of_secondHalf ht hh).2

theorem followingSlot_half_of_onTrack (ht : c.onTrack) : (followingSlot cfg n c).half = !c.half := by
  cases hh : c.half
  · rw [followingSlot_of_firstHalf ht hh]
    rfl
  · exact (followingSlot_of_secondHalf ht hh).1

/-- R167: the second half of the first preamble bit comes only after its first half. -/
theorem followingSlot_eq_trigger_iff (hc : CursorOk cfg n c) (ht : c.onTrack) :
    c.phase = .preamble ∧ c.bitIdx = 0 ∧ c.half = false ↔
      followingSlot cfg n c = { Cursor.first with half := true } := by
  cases hh : c.half
  · rw [followingSlot_of_firstHalf ht hh]
    obtain ⟨ph, j, k, hf⟩ := c
    rcases ht with rfl | rfl
    · obtain ⟨rfl, -⟩ := hc
      simp [Cursor.first]
    · simp [Cursor.first]
  · have := (followingSlot_of_secondHalf (cfg := cfg) (n := n) ht hh).1
    refine ⟨fun h => absurd h.2.2 (by simp), fun h => ?_⟩
    rw [h] at this
    cases this

end

/-! ### The outputs of the emitted slot -/

theorem emit_of_onTrack {c : Cursor} (s : State) (h : c.onTrack) : emit c s = emitTrack c s := by
  unfold emit
  rcases h with h | h <;> rw [h]

/-- R164: the polarity after a step is the half of the slot the cursor comes to. -/
theorem emit_pol_following {s : State} {c : Cursor} {n : Byte} (hc : CursorOk s.tx.cfg n c) (hpol : s.tx.pol = c.half) :
    (emit c s).tx.pol = (followingSlot s.tx.cfg n c).half := by
  rw [emit_pol, hpol]
  split
  · rename_i ht
    exact (followingSlot_half_of_onTrack ht).symm
  · rename_i ht
    obtain ⟨ph, j, k, hf⟩ := c
    cases ph
    case preamble | data => simp at ht
    all_goals exact hc.2.2.2

/-- R154: the pins after a slot is emitted follow the cursor's next place. -/
theorem emit_pins_following {s : State} {c : Cursor} {n : Byte} (hc : CursorOk s.tx.cfg n c)
    (hp : PinsOk s.tx.cfg c s.tx.pol s.tx.pins) :
    PinsOk s.tx.cfg (followingSlot s.tx.cfg n c) (emit c s).tx.pol (emit c s).tx.pins := by
  by_cases ht : c.onTrack
  · obtain ⟨hcut, harm⟩ := @followingSlot_not_inCutout s.tx.cfg n c ht
    obtain ⟨hcut0, harm0⟩ := not_inCutout (.inl ht)
    rw [emit_of_onTrack s ht]
    exact {
      enables := by rw [hcut, ← hcut0]; exact hp.enables
      armed := by rw [harm, ← harm0]; exact hp.armed
      cutout := fun h => by simp [hcut] at h
      driven := fun _ => .inr ⟨rfl, rfl⟩
      trigger := congrArg (s.tx.cfg.trig && ·) (decide_eq_decide.mpr (followingSlot_eq_trigger_iff hc ht)) }
  · obtain ⟨ph, j, k, hf⟩ := c
    cases ph
    case preamble | data => simp at ht
    case bidiStart => exact ⟨⟨rfl, rfl, rfl⟩, hp.armed, fun _ => ⟨rfl, rfl⟩, nofun, (Bool.and_false _).symm⟩
    case bidiCh1 => exact ⟨hp.enables, rfl, fun _ => hp.cutout rfl, nofun, (Bool.and_false _).symm⟩
    case bidiCh2 => exact ⟨hp.enables, rfl, fun _ => hp.cutout rfl, nofun, (Bool.and_false _).symm⟩
    case bidiEnd => exact ⟨⟨rfl, rfl, rfl⟩, rfl, nofun, fun _ => .inr ⟨rfl, rfl⟩, (Bool.and_false _).symm⟩

/-! ### The buffers of the transmit side -/

/-- R154: BiDiStart clears the counts, BiDiEnd copies them to the snapshot. -/
theorem BidiOk.emit {s : State} (h : BidiOk s.params s.bidi) (c : Cursor) : BidiOk s.params (emit c s).bidi := by
  rw [emit_bidi]
  cases c.phase
  case bidiStart => exact { h with n1 := Nat.zero_le _, n2 := Nat.zero_le _ }
  case bidiEnd => exact { h with sn1 := h.n1, sn2 := h.n2 }
  all_goals exact h

/-- R154: BRAW is cleared with its counts, and BSNAP gets BRAW's zero tails with its counts. -/
theorem TxTails.emit {s : State} {l n : Byte} (h : TxTails s.mem l n s.bidi) (hw : s.mem.wf = true) (c : Cursor) :
    TxTails (emit c s).mem l n (emit c s).bidi := by
  rw [emit_mem, emit_bidi]
  cases c.phase
  case bidiStart => exact {
    mbox := h.mbox.fill_disjoint hw _ (by decide) (by decide)
    act := h.act.fill_disjoint hw _ (by decide) (by decide)
    braw1 := zeroTail_fill (off := 0) hw (by decide) (by decide) fun _ _ _ => rfl
    braw2 := zeroTail_fill hw (by decide) (by decide) fun _ _ _ => rfl
    bsnap1 := h.bsnap1.fill_disjoint hw _ (by decide) (by decide)
    bsnap2 := h.bsnap2.fill_disjoint hw _ (by decide) (by decide) }
  case bidiEnd => exact {
    mbox := h.mbox.fill_disjoint hw _ (by decide) (by decide)
    act := h.act.fill_disjoint hw _ (by decide) (by decide)
    braw1 := h.braw1.fill_disjoint hw _ (by decide) (by decide)
    braw2 := h.braw2.fill_disjoint hw _ (by decide) (by decide)
    bsnap1 := zeroTail_fill (off := 0) hw (by decide) (by decide) fun i hi hl => by
      rw [Nat.zero_add]
      exact h.braw1 i hi hl
    bsnap2 := zeroTail_fill hw (by decide) (by decide) fun i hi hl => by
      rw [← Nat.add_assoc]
      exact h.braw2 i hi hl }
  all_goals exact h

/-- R157: the latched packet has at least one byte and fits its buffer. -/
theorem latchedLen_range {s : State} (hp : s.params.valid = true) (hm : s.tx.mboxLen.toNat ≤ s.params.pktCapacity) :
    1 ≤ (latchedLen s).toNat ∧ (latchedLen s).toNat ≤ s.params.pktCapacity := by
  have hidle := idlePacket_length_range hp
  have hcap := pktCapacity_le_packetRegion hp
  have h32 : packetRegion = 32 := rfl
  unfold latchedLen
  split
  · rename_i hb
    simp only [mailboxHasPacket, Bool.and_eq_true, decide_eq_true_eq] at hb
    exact ⟨hb.2, hm⟩
  · rw [BitVec.toNat_ofNat, Nat.mod_eq_of_lt (by omega)]
    exact hidle

/-- R157: the latched packet is zero past its length. -/
theorem latchedByte_eq_zero {s : State} (hp : s.params.valid = true)
    (hm : ZeroTail s.mem mboxBase packetRegion s.tx.mboxLen.toNat) {i : Nat} (hi : i < packetRegion)
    (hl : (latchedLen s).toNat ≤ i) : latchedByte s i = 0 := by
  have hidle := idlePacket_length_range hp
  have hcap := pktCapacity_le_packetRegion hp
  have h32 : packetRegion = 32 := rfl
  unfold latchedLen at hl
  unfold latchedByte
  by_cases hb : mailboxHasPacket s = true
  · rw [if_pos hb] at hl ⊢
    exact hm i hi hl
  · rw [if_neg hb] at hl ⊢
    rw [BitVec.toNat_ofNat, Nat.mod_eq_of_lt (by omega)] at hl
    exact List.getD_eq_default _ _ hl

theorem ZeroTail.enterFrame {s : State} {base size len : Nat} (h : ZeroTail s.mem base size len) (hw : s.mem.wf = true)
    (hb : actBase + packetRegion ≤ base) : ZeroTail (enterFrame s).mem base size len :=
  h.congr fun i _ => by
    have hlt : packetRegion ≤ actBase + packetRegion := by decide
    rw [enterFrame_read hw, if_neg (by omega), if_neg (by omega)]

/-- R157: ACT gets the latched packet, MBOX is cleared. -/
theorem TxTails.enterFrame {s : State} (hp : s.params.valid = true) (hw : s.mem.wf = true)
    (h : TxTails s.mem s.tx.mboxLen s.tx.actLen s.bidi) : TxTails (enterFrame s).mem 0 (latchedLen s) s.bidi where
  mbox := fun i hi _ => by
    rw [enterFrame_read hw, mboxBase, Nat.zero_add, if_pos hi]
  act := fun i hi hl => by
    have hbase : packetRegion ≤ actBase := by decide
    rw [enterFrame_read hw, if_neg (by omega), if_pos (by omega), Nat.add_sub_cancel_left]
    exact latchedByte_eq_zero hp h.mbox hi hl
  braw1 := h.braw1.enterFrame hw (by decide)
  braw2 := h.braw2.enterFrame hw (by decide)
  bsnap1 := h.bsnap1.enterFrame hw (by decide)
  bsnap2 := h.bsnap2.enterFrame hw (by decide)

/-! ### Which bytes an operation of the transmit side changes -/

/-- R154: `emit` writes BRAW and BSNAP only. -/
theorem emit_sameOutside {s : State} (hw : s.mem.wf = true) (c : Cursor) : SameMemoryOutside TxAddress s (emit c s) :=
  fun a ha => emit_read hw c a ⟨fun h => ha (.inr (.inr (.inl h))), fun h => ha (.inr (.inr (.inr h)))⟩

/-- R157: a latch writes MBOX and ACT only. -/
theorem enterFrame_sameOutside {s : State} (hw : s.mem.wf = true) : SameMemoryOutside TxAddress s (enterFrame s) := by
  intro a ha
  simp only [TxAddress, InRegion, mboxBase, packetRegion, not_or] at ha
  obtain ⟨hmbox, hact, -, -⟩ := ha
  rw [enterFrame_read hw, if_neg (by simp only [packetRegion]; omega),
    if_neg (by simp only [actBase, packetRegion] at hact ⊢; omega)]

/-- A byte that is cleared, or zero already, is zero after a clear. -/
theorem Memory.read_clear_eq_zero {m : Memory} (hw : m.wf = true) {base len a : Nat} (hm : base + len ≤ bufferTop + 1)
    (h : InRegion base len a ∨ m.read a = 0) : (m.clear base len).read a = 0 := by
  rw [Memory.read_clear hw _ _ _ hm]
  split
  · rfl
  · rename_i hout
    exact h.resolve_left hout

theorem txTails_of_zero {m : Memory} {l n : Byte} {b : Bidi} (hz : ∀ a, TxAddress a → m.read a = 0) :
    TxTails m l n b :=
  TxTails.congr (m := { cells := [] }) ⟨fun _ _ _ => rfl, fun _ _ _ => rfl, fun _ _ _ => rfl, fun _ _ _ => rfl,
    fun _ _ _ => rfl, fun _ _ _ => rfl⟩ hz

section
variable {s : State} (hw : s.mem.wf = true) (np : Byte) (bidi invert trig : Bool) (b1 b0 : BitVec 16)
include hw

theorem configure_wf : (configure np bidi invert trig b1 b0 s).mem.wf = true :=
  Memory.clear_wf (Memory.clear_wf (Memory.clear_wf (Memory.clear_wf hw _ _) _ _) _ _) _ _

/-- R158: INIT_TX writes the four regions of the transmit side only. -/
theorem configure_sameOutside : SameMemoryOutside TxAddress s (configure np bidi invert trig b1 b0 s) := fun a ha =>
  have hw1 := Memory.clear_wf hw mboxBase packetRegion
  have hw2 := Memory.clear_wf hw1 actBase packetRegion
  have hw3 := Memory.clear_wf hw2 brawBase bidiRegion
  calc (configure np bidi invert trig b1 b0 s).mem.read a
    _ = _ := Memory.read_fill_outside hw3 _ (by decide) fun hin => ha (.inr (.inr (.inr hin)))
    _ = _ := Memory.read_fill_outside hw2 _ (by decide) fun hin => ha (.inr (.inr (.inl hin)))
    _ = _ := Memory.read_fill_outside hw1 _ (by decide) fun hin => ha (.inr (.inl hin))
    _ = s.mem.read a := Memory.read_fill_outside hw _ (by decide) fun hin => ha (.inl hin)

/-- R158: INIT_TX clears the four regions of the transmit side. -/
theorem configure_read_of_txAddress {a : Nat} (ha : TxAddress a) :
    (configure np bidi invert trig b1 b0 s).mem.read a = 0 := by
  have hw1 := Memory.clear_wf hw mboxBase packetRegion
  have hw2 := Memory.clear_wf hw1 actBase packetRegion
  have hw3 := Memory.clear_wf hw2 brawBase bidiRegion
  have hz1 := Memory.read_clear_eq_zero hw (base := mboxBase) (len := packetRegion) (a := a) (by decide)
  have hz2 := Memory.read_clear_eq_zero hw1 (base := actBase) (len := packetRegion) (a := a) (by decide)
  have hz3 := Memory.read_clear_eq_zero hw2 (base := brawBase) (len := bidiRegion) (a := a) (by decide)
  have hz4 := Memory.read_clear_eq_zero hw3 (base := bsnapBase) (len := bidiRegion) (a := a) (by decide)
  rcases ha with hmbox | hact | hbraw | hbsnap
  · exact hz4 (.inr (hz3 (.inr (hz2 (.inr (hz1 (.inl hmbox)))))))
  · exact hz4 (.inr (hz3 (.inr (hz2 (.inl hact)))))
  · exact hz4 (.inr (hz3 (.inl hbraw)))
  · exact hz4 (.inl hbsnap)

end

/-! ### Where a return-channel byte goes -/

/-- R252: a byte goes to the end of the armed channel's part of BRAW. -/
theorem bidiStoreAddr_cases {s : State} {a : Nat} (ha : bidiStoreAddr s = some a) :
    (s.tx.pins.rcCh = .ch1 ∧ s.bidi.n1.toNat < ch1Bytes ∧ a = brawBase + s.bidi.n1.toNat) ∨
    (s.tx.pins.rcCh = .ch2 ∧ s.bidi.n2.toNat < ch2Bytes ∧ a = brawBase + ch1Bytes + s.bidi.n2.toNat) := by
  unfold bidiStoreAddr at ha
  split at ha
  · cases ha
  · rename_i hch
    split at ha <;> cases ha
    exact .inl ⟨hch, ‹_›, rfl⟩
  · rename_i hch
    split at ha <;> cases ha
    exact .inr ⟨hch, ‹_›, rfl⟩

/-! ### The engine's fields -/

theorem RunState.not_on_stopped : ¬ RunState.stopped.on := by decide

section
variable {p : Params} {tx : Tx} (h : TxOk p tx)
include h

/-- R162, R338: a configured engine that stops. -/
theorem TxOk.stopped (hr : tx.run ≠ .uninit) : TxOk p { tx with pins := .off, run := .stopped, stopReq := false } :=
  { h with
    uninit := nofun
    cfg := fun _ => h.cfg hr
    cursor := fun _ => h.cursor hr
    active := fun hon => absurd hon RunState.not_on_stopped
    arrActive := fun hon => absurd hon RunState.not_on_stopped
    arrPreload := fun hon => absurd hon RunState.not_on_stopped
    stopReq := nofun
    halting := nofun
    off := fun _ => rfl
    pins := fun hon => absurd hon RunState.not_on_stopped }

/-- R161: a STOP is pending. -/
theorem TxOk.requestStop (hr : tx.run = .running) : TxOk p { tx with stopReq := true } :=
  { h with
    stopReq := fun _ => .inl hr
    halting := fun hh => by simp [hr] at hh }

/-- R162: the wrap step of a frame for which a STOP is pending. -/
theorem TxOk.halt (hr : tx.run = .running) (hs : tx.stopReq = true) (hc : tx.cursor = .first) :
    TxOk p { tx with run := .halting } :=
  { h with
    uninit := nofun
    cfg := fun _ => h.cfg (by simp [hr])
    cursor := fun _ => h.cursor (by simp [hr])
    active := fun _ => h.active (.inl hr)
    arrActive := fun _ => h.arrActive (.inl hr)
    arrPreload := fun _ => h.arrPreload (.inl hr)
    stopReq := fun _ => .inr rfl
    halting := fun _ => ⟨hs, hc⟩
    off := fun hoff => absurd (.inr rfl) hoff
    pins := fun _ => h.pins (.inl hr) }

/-- R157: a packet latched at the first slot. -/
theorem TxOk.latch (hp : p.valid = true) (hr : tx.run ≠ .uninit) (hc : tx.cursor = .first) {n : Byte}
    (hn : 1 ≤ n.toNat ∧ n.toNat ≤ p.pktCapacity) : TxOk p { tx with actLen := n, mboxFull := false, mboxLen := 0 } :=
  { h with
    uninit := fun hu => absurd hu hr
    cursor := fun _ => by
      simp only [hc]
      exact cursorOk_first n ((h.cfg hr).np_pos hp)
    mboxLen := Nat.zero_le _
    mboxEmpty := fun _ => rfl
    actLen := hn.2
    active := fun _ => hn.1 }

/-- R159: a packet in the mailbox. -/
theorem TxOk.fillMailbox {n : Byte} (hn : n.toNat ≤ p.pktCapacity) :
    TxOk p { tx with mboxLen := n, mboxFull := true } :=
  { h with
    mboxLen := hn
    mboxEmpty := nofun }

/-- R160: a stopped engine at the first slot with its packet latched. -/
theorem TxOk.begin (hp : p.valid = true) (hr : tx.run = .stopped) {n : Byte}
    (hn : 1 ≤ n.toNat ∧ n.toNat ≤ p.pktCapacity) :
    TxOk p { tx with
      actLen := n, mboxFull := false, mboxLen := 0, cursor := .first, pol := false, stopReq := false
      arrActive := tx.cfg.bit1Ticks, arrPreload := tx.cfg.bit1Ticks, run := .running } := by
  have hcfg := h.cfg (by simp [hr])
  have hpins : tx.pins = .off := h.off (by rw [hr]; exact RunState.not_on_stopped)
  exact {
    uninit := nofun
    cfg := fun _ => hcfg
    cursor := fun _ => cursorOk_first n (hcfg.np_pos hp)
    pol := rfl
    mboxLen := Nat.zero_le _
    mboxEmpty := fun _ => rfl
    actLen := hn.2
    active := fun _ => hn.1
    arrActive := fun _ => hcfg.bit1Range
    arrPreload := fun _ => hcfg.bit1Range
    stopReq := fun _ => .inl rfl
    halting := nofun
    off := fun hoff => absurd (.inl rfl) hoff
    pins := fun _ => by
      rw [hpins]
      exact ⟨⟨rfl, rfl, rfl⟩, rfl, fun _ => ⟨rfl, rfl⟩, fun _ => .inl ⟨rfl, rfl, rfl⟩, (Bool.and_false _).symm⟩ }

end

/-- R158: the bounds INIT_TX checks, and that the lengths in ticks fit their fields. -/
theorem cfgOk_of_configOk {p : Params} (hp : p.valid = true) {np : Byte} {bidi : Bool} {b1 b0 : BitVec 16}
    (hc : configOk p np bidi b1 b0 = true) (invert trig : Bool) :
    CfgOk p
      { np := np, bit1Us := b1, bit0Us := b0, bit1Ticks := BitVec.ofNat 32 (usToTicks p b1)
        bit0Ticks := BitVec.ofNat 32 (usToTicks p b0), bidi := bidi, invert := invert, trig := trig } := by
  simp only [configOk, tickRange, Bool.and_eq_true, decide_eq_true_eq] at hc
  obtain ⟨hnp, -, h1, h1', h0, ht1, ht0, hcut⟩ := hc
  have hmax := arrMax_lt_two_pow hp
  have hto : ∀ us : BitVec 16, usToTicks p us ≤ p.arrMax → (BitVec.ofNat 32 (usToTicks p us)).toNat = usToTicks p us :=
    fun us hle => by rw [BitVec.toNat_ofNat, Nat.mod_eq_of_lt (by omega)]
  exact {
    npMin := hnp
    bit1Min := h1
    bit1Max := h1'
    bit0Min := h0
    bit1Ticks := hto b1 ht1.2
    bit0Ticks := hto b0 ht0.2
    bit1Range := by rw [hto b1 ht1.2]; exact ht1
    bit0Range := by rw [hto b0 ht0.2]; exact ht0
    cutout := hcut }

/-- R158: an engine that INIT_TX has configured. -/
theorem txOk_configured {p : Params} {cfg : TxCfg} (hp : p.valid = true) (hcfg : CfgOk p cfg) :
    TxOk p { Tx.reset with run := .stopped, cfg := cfg } where
  uninit := nofun
  cfg := fun _ => hcfg
  cursor := fun _ => cursorOk_first _ (hcfg.np_pos hp)
  pol := rfl
  mboxLen := Nat.zero_le _
  mboxEmpty := fun _ => rfl
  actLen := Nat.zero_le _
  active := fun hon => absurd hon RunState.not_on_stopped
  arrActive := fun hon => absurd hon RunState.not_on_stopped
  arrPreload := fun hon => absurd hon RunState.not_on_stopped
  stopReq := nofun
  halting := nofun
  off := fun _ => rfl
  pins := fun hon => absurd hon RunState.not_on_stopped

/-- R162: a reload value in range fits its register. -/
theorem reload_range {p : Params} (hp : p.valid = true) {r : Int} (hr : reloadOk p r = true) :
    1 ≤ (BitVec.ofInt 32 r).toNat ∧ (BitVec.ofInt 32 r).toNat ≤ p.arrMax := by
  simp only [reloadOk, Bool.and_eq_true, decide_eq_true_eq] at hr
  have hmax := arrMax_lt_two_pow hp
  rw [BitVec.toNat_ofInt]
  omega

/-- R162: a Running engine after its slot is emitted and its cursor moved. -/
theorem TxOk.advance {s : State} (h : TxOk s.params s.tx) (hp : s.params.valid = true) (hr : s.tx.run = .running)
    {r : Word} (hrange : 1 ≤ r.toNat ∧ r.toNat ≤ s.params.arrMax) :
    TxOk s.params { (emit s.tx.cursor (loadActive s)).tx with
      cursor := followingSlot s.tx.cfg s.tx.actLen s.tx.cursor, arrPreload := r } := by
  have hne : s.tx.run ≠ .uninit := by simp [hr]
  have hc := h.cursor hne
  have hn : s.tx.actLen.toNat ≤ packetRegion := h.actLen.trans (pktCapacity_le_packetRegion hp)
  have hpol := emit_pol_following (s := loadActive s) hc h.pol
  have hpins := emit_pins_following (s := loadActive s) hc (h.pins (.inl hr))
  constructor <;> simp only [emit_run, emit_cfg, emit_stopReq, emit_mboxFull, emit_mboxLen, emit_actLen, emit_arrActive,
    loadActive_tx]
  case uninit => exact fun hu => absurd hu hne
  case cfg => exact h.cfg
  case cursor => exact fun _ => followingSlot_ok ((h.cfg hne).np_pos hp) hn hc
  case pol => exact hpol
  case mboxLen => exact h.mboxLen
  case mboxEmpty => exact h.mboxEmpty
  case actLen => exact h.actLen
  case active => exact h.active
  case arrActive => exact h.arrPreload
  case arrPreload => exact fun _ => hrange
  case stopReq => exact h.stopReq
  case halting => exact fun hh => by simp [hr] at hh
  case off => exact fun hoff => absurd (.inl hr) hoff
  case pins => exact fun _ => hpins

end Sys2Proof.Machine
end

section
/-! SUPPORT. Every operation, and so every step, keeps the invariant. -/

namespace Sys2Proof.Machine

section
variable {s t : State} (h : Inv s)
include h

/-! ### The transmit engine (41_tx_engine.md R158-R162) -/

theorem inv_configure {np : Byte} {bidi : Bool} {b1 b0 : BitVec 16} (hc : configOk s.params np bidi b1 b0 = true)
    (invert trig : Bool) : Inv (configure np bidi invert trig b1 b0 s) :=
  h.of_tx rfl rfl rfl (configure_wf h.mem ..) (configure_sameOutside h.mem _ _ _ _ _ _)
    (txTails_of_zero fun _ ha => configure_read_of_txAddress h.mem _ _ _ _ _ _ ha)
    (txOk_configured h.params (cfgOk_of_configOk h.params hc invert trig))
    { h.bidi with n1 := Nat.zero_le _, n2 := Nat.zero_le _, sn1 := Nat.zero_le _, sn2 := Nat.zero_le _ }

theorem inv_initTx {np : Byte} {bidi invert trig : Bool} {b1 b0 : BitVec 16}
    (ht : execInitTx np bidi invert trig b1 b0 s = .next t) : Inv t := by
  rcases execInitTx_next ht with ⟨-, rfl⟩ | ⟨-, ⟨hc, rfl⟩ | ⟨-, rfl⟩⟩
  · exact inv_raise h _
  · exact inv_finish (inv_configure h hc invert trig)
  · exact inv_raise h _

theorem inv_fillMailbox {bytes : List Byte} (hl : bytes.length ≤ s.params.pktCapacity) :
    Inv (fillMailbox bytes s) := by
  have hcap := pktCapacity_le_packetRegion h.params
  have h32 : packetRegion = 32 := rfl
  have hlen : (BitVec.ofNat 8 bytes.length).toNat = bytes.length := by
    rw [BitVec.toNat_ofNat, Nat.mod_eq_of_lt (by omega)]
  have htails := h.txTails
  refine h.of_tx rfl rfl rfl (Memory.fill_wf h.mem _ _ _) (fun a ha => ?_) ?_ (h.tx.fillMailbox (by rwa [hlen])) h.bidi
  · exact Memory.read_fill_outside h.mem _ (by decide) fun hin => ha (.inl hin)
  · exact {
      mbox := zeroTail_fill (off := 0) h.mem (by decide) (by decide) fun i _ hi => by
        simp only [fillMailbox_tx, hlen] at hi
        rw [Nat.zero_add]
        exact List.getD_eq_default _ _ hi
      act := htails.act.fill_disjoint h.mem _ (by decide) (by decide)
      braw1 := htails.braw1.fill_disjoint h.mem _ (by decide) (by decide)
      braw2 := htails.braw2.fill_disjoint h.mem _ (by decide) (by decide)
      bsnap1 := htails.bsnap1.fill_disjoint h.mem _ (by decide) (by decide)
      bsnap2 := htails.bsnap2.fill_disjoint h.mem _ (by decide) (by decide) }

theorem inv_packet {bytes : List Byte} (ht : execPacket bytes s = .next t) : Inv t := by
  rcases execPacket_next ht with ⟨-, rfl⟩ | ⟨hl, rfl⟩
  · exact inv_raise h _
  · exact inv_finish (inv_fillMailbox h hl)

theorem inv_start (ht : execStart s = .next t) : Inv t := by
  rcases execStart_next ht with ⟨-, rfl⟩ | ⟨-, rfl⟩ | ⟨hr, rfl⟩
  · exact inv_raise h _
  · exact inv_raise h _
  · exact inv_finish (h.of_tx rfl rfl rfl (enterFrame_wf h.mem) (enterFrame_sameOutside h.mem)
      (h.txTails.enterFrame h.params h.mem) (h.tx.begin h.params hr (latchedLen_range h.params h.tx.mboxLen)) h.bidi)

/-- A change of the transmit engine's fields alone, with the two lengths kept. -/
theorem Inv.withTx {tx : Tx} (htx : TxOk s.params tx) (hm : tx.mboxLen = s.tx.mboxLen) (ha : tx.actLen = s.tx.actLen) :
    Inv { s with tx := tx } :=
  h.of_tx rfl rfl rfl h.mem (fun _ _ => rfl) (by simpa only [hm, ha] using h.txTails) htx h.bidi

theorem inv_stop (ht : execStop s = .next t) : Inv t := by
  rcases execStop_next ht with ⟨hr, rfl⟩ | ⟨-, rfl⟩
  · exact inv_finish (h.withTx (h.tx.requestStop hr) rfl rfl)
  · exact inv_finish h

theorem inv_stopEngine (hr : s.tx.run ≠ .uninit) : Inv (stopEngine s) := h.withTx (h.tx.stopped hr) rfl rfl

/-- R162: an engine that is on has a next reload value in range. -/
theorem inv_loadActive (hon : s.tx.run.on) : Inv (loadActive s) := by
  refine h.withTx { h.tx with uninit := fun hu => ?_, arrActive := h.tx.arrPreload } rfl rfl
  rcases hon with e | e <;> rw [e] at hu <;> cases hu

/-- R162: the step of a Running engine whose next slot's length is in range: the slot is emitted, and the cursor goes on
in the frame, wraps into Halting, or wraps into the next frame. -/
theorem inv_setReload (hr : s.tx.run = .running) {s' : State} {r : Int} (he : emitAndAdvance s = (s', .ok r))
    (hrange : reloadOk s.params r = true) : Inv (setReload r s') := by
  obtain ⟨s'', r', he', hcases⟩ := emitAndAdvance_cases h hr
  obtain ⟨rfl, -⟩ := Prod.mk.inj (he.symm.trans he')
  have htx := h.tx.advance h.params hr (reload_range h.params hrange)
  set u := emit s.tx.cursor (loadActive s) with hu
  have hw : u.mem.wf = true := emit_wf (s := loadActive s) h.mem _
  have hout : SameMemoryOutside TxAddress s u := emit_sameOutside (s := loadActive s) h.mem s.tx.cursor
  have htails : TxTails u.mem u.tx.mboxLen u.tx.actLen u.bidi := by
    rw [hu, emit_mboxLen, emit_actLen]
    exact TxTails.emit (s := loadActive s) h.txTails h.mem s.tx.cursor
  have hbidi : BidiOk s.params u.bidi := BidiOk.emit (s := loadActive s) h.bidi s.tx.cursor
  have hp : u.params = s.params := emit_params _ _
  have hrx : u.rx = s.rx := emit_rx _ _
  have hfault : u.fault = s.fault := emit_fault _ _
  have hrun : u.tx.run = .running := (emit_run _ _).trans hr
  have hlen : u.tx.mboxLen.toNat ≤ s.params.pktCapacity := htx.mboxLen
  rcases hcases with ⟨hnext, hstop, rfl, -⟩ | ⟨hnext, -, rfl, -⟩ | ⟨c, hnext, -, rfl, -⟩
  all_goals simp only [followingSlot, hnext, Option.getD_none, Option.getD_some] at htx
  · exact h.of_tx hp hrx hfault hw hout htails (htx.halt hrun ((emit_stopReq _ _).trans hstop) rfl) hbidi
  · have hvalid : u.params.valid = true := hp ▸ h.params
    have hlatched := latchedLen_range hvalid (hp ▸ hlen)
    exact h.of_tx hp hrx hfault (enterFrame_wf hw) (fun a ha => (enterFrame_sameOutside hw a ha).trans (hout a ha))
      (htails.enterFrame hvalid hw) (htx.latch h.params (by simp [hrun]) rfl (hp ▸ hlatched)) hbidi
  · exact h.of_tx hp hrx hfault hw hout htails htx hbidi

theorem inv_txUpdate (ht : execTxUpdate s = .next t) : Inv t := by
  rcases execTxUpdate_next ht with ⟨-, rfl⟩ | ⟨-, rfl⟩ | ⟨hr, rfl⟩ | ⟨hr, s', r, he, ⟨hrange, rfl⟩ | ⟨-, rfl⟩⟩
  · exact inv_raise h _
  · exact inv_noStep h
  · exact inv_finish (inv_stopEngine (inv_loadActive h (.inr hr)) (by simp [hr]))
  · exact inv_setReload h hr he hrange
  · exact inv_raise (inv_stopEngine h (by simp [hr])) _

/-! ### The override and the return channel (43_bidi.md, 44_zero_bit_override.md) -/

theorem inv_setOvrDelta {sel : OvrSel} {delta : BitVec 32} (ht : execSetOvrDelta sel delta s = .next t) : Inv t := by
  unfold execSetOvrDelta at ht
  cases sel <;> cases ht <;> exact inv_finish (inv_setOvr h _)

/-- A change of the return channel's fields alone, with the four counts kept. -/
theorem Inv.withBidi {b : Bidi} (hb : BidiOk s.params b)
    (hn : b.n1 = s.bidi.n1 ∧ b.n2 = s.bidi.n2 ∧ b.sn1 = s.bidi.sn1 ∧ b.sn2 = s.bidi.sn2) : Inv { s with bidi := b } := by
  obtain ⟨h1, h2, h3, h4⟩ := hn
  obtain ⟨hmbox, hact, hb1, hb2, hs1, hs2⟩ := h.txTails
  refine h.of_tx rfl rfl rfl h.mem (fun _ _ => rfl) ⟨hmbox, hact, ?_, ?_, ?_, ?_⟩ h.tx hb
  · rwa [h1]
  · rwa [h2]
  · rwa [h3]
  · rwa [h4]

theorem inv_setBidiThreshold {v : BitVec 16} (ht : execSetBidiThreshold v s = .next t) : Inv t := by
  rcases execSetBidiThreshold_next ht with ⟨-, rfl⟩ | ⟨hv, rfl⟩
  · exact inv_raise h _
  · exact inv_finish (h.withBidi { h.bidi with threshold := hv } ⟨rfl, rfl, rfl, rfl⟩)

theorem inv_bidiTake (ht : execBidiTake s = .next t) : Inv t := by
  rcases execBidiTake_next ht with ⟨-, rfl⟩ | ⟨-, rfl⟩
  · exact inv_respond h _
  · exact inv_respond (h.withBidi (b := { s.bidi with ready := false }) { h.bidi with } ⟨rfl, rfl, rfl, rfl⟩) _

/-- R252: a byte is stored at the end of the armed channel's part of BRAW, and its count is one more. -/
theorem inv_storeBidi {a : Nat} (ha : bidiStoreAddr s = some a) (b : Byte) :
    Inv { s with mem := s.mem.write a b, bidi := countByte s.tx.pins.rcCh s.bidi } := by
  have hrange := bidiStoreAddr_range ha
  have hsucc : ∀ {n : BitVec 4}, n.toNat < ch2Bytes → (n + 1).toNat = n.toNat + 1 := fun (hn : _ < 6) =>
    BitVec.toNat_add_of_lt (y := 1) (by simp; omega)
  have hne : ∀ {base size : Nat}, base + size ≤ brawBase ∨ brawBase + bidiRegion ≤ base → ¬ InRegion base size a := by
    rintro base size hd ⟨hlo, hhi⟩
    omega
  have hmbox := h.txTails.mbox.write_outside h.mem b (hne (by decide))
  have hact := h.txTails.act.write_outside h.mem b (hne (by decide))
  have hs1 := h.txTails.bsnap1.write_outside h.mem b (hne (by decide))
  have hs2 := h.txTails.bsnap2.write_outside h.mem b (hne (by decide))
  refine h.of_tx rfl rfl rfl (Memory.write_wf h.mem _ _)
    (fun x hx => Memory.read_write_of_ne h.mem _ fun e => hx (.inr (.inr (.inl (e ▸ hrange))))) ?_ h.tx ?_
  all_goals rcases bidiStoreAddr_cases ha with ⟨hch, hn, rfl⟩ | ⟨hch, hn, rfl⟩
  all_goals simp only [hch, countByte]
  · have hsucc1 := hsucc (hn.trans (by decide))
    exact {
      mbox := hmbox, act := hact, bsnap1 := hs1, bsnap2 := hs2
      braw1 := by rw [hsucc1]; exact h.txTails.braw1.write_end h.mem b
      braw2 := h.txTails.braw2.write_outside h.mem b fun ⟨hlo, _⟩ => by omega }
  · exact {
      mbox := hmbox, act := hact, bsnap1 := hs1, bsnap2 := hs2
      braw1 := h.txTails.braw1.write_outside h.mem b fun ⟨_, hhi⟩ => by omega
      braw2 := by rw [hsucc hn]; exact h.txTails.braw2.write_end h.mem b }
  · exact { h.bidi with n1 := by rw [hsucc (hn.trans (by decide))]; exact hn }
  · exact { h.bidi with n2 := by rw [hsucc hn]; exact hn }

theorem inv_bidiByte {b : Byte} (ht : execBidiByte b s = .next t) : Inv t := by
  rcases execBidiByte_next ht with ⟨-, rfl⟩ | ⟨a, ha, rfl⟩
  · exact inv_finish h
  · exact inv_finish (inv_storeBidi h ha b)

/-! ### The status reads (45_status.md) -/

theorem inv_readReg {n : Byte} (ht : execReadReg n s = .next t) : Inv t := by
  rcases execReadReg_next ht with ⟨-, rfl⟩ | ⟨w, -, rfl⟩
  · exact inv_raise h _
  · exact inv_respond h _

theorem inv_readBuf {a : Byte} (ht : execReadBuf a s = .next t) : Inv t := by
  rcases execReadBuf_next ht with ⟨-, rfl⟩ | ⟨w, -, rfl⟩
  · exact inv_raise h _
  · exact inv_respond h _

/-! ### Every operation and every step -/

theorem exec_keeps_inv {i : Instr} (ht : exec i s = .next t) : Inv t := by
  cases i <;> simp only [exec] at ht
  case initTx => exact inv_initTx h ht
  case packet => exact inv_packet h ht
  case start => exact inv_start h ht
  case stop => exact inv_stop h ht
  case setOvrMask =>
    cases ht
    exact inv_finish (inv_setOvr h _)
  case setOvrDelta => exact inv_setOvrDelta h ht
  case setBidiThreshold => exact inv_setBidiThreshold h ht
  case rxInit =>
    cases ht
    exact inv_finish (inv_rxRestart h _)
  case rxTake => exact inv_rxTake h ht
  case bidiTake => exact inv_bidiTake h ht
  case readReg => exact inv_readReg h ht
  case readBuf => exact inv_readBuf h ht
  case txUpdate => exact inv_txUpdate h ht
  case rxCapture => exact inv_rxCapture h ht
  case bidiByte => exact inv_bidiByte h ht
  case rxBidiFire => exact inv_rxBidiFire h ht

end

/-- Settles O58: a step waits, faults, or performs an operation on the state with its words consumed, and each of these
keeps every part of the invariant. -/
theorem stepKeepsInvariant : Obligations.StepKeepsInvariant := by
  unfold Obligations.StepKeepsInvariant
  intro s t h ht
  rcases step_next ht with
    ⟨-, ⟨-, rfl⟩ | ⟨port, -, ⟨-, rfl⟩ | ⟨-, rfl⟩ | ⟨n, -, rfl⟩ | ⟨i, n, -, he⟩⟩⟩
  · exact inv_await h
  · exact inv_await (inv_turnPassed h)
  · exact inv_raise (inv_consumed h port 1) _
  · exact inv_raise (inv_consumed h port n) _
  · exact exec_keeps_inv (inv_consumed h port n) he

end Sys2Proof.Machine
end

section
/-! SUPPORT. The decoder on any words (30_encoding.md R91-R105): the reserved bits of a transaction are those R333 lists, a
transaction without one is the encoding of what it decodes to, and words that decode are such a transaction. -/

namespace Sys2Proof

open Machine

/-! ### Decode of encode, and the examples of R94-R101 -/

/-- Settles O1: the lemma about the decoder on an encoding. -/
theorem decodeOfEncode : Obligations.DecodeOfEncode := by
  unfold Obligations.DecodeOfEncode
  intro p i rest hwf
  exact decode_encode_append hwf rest

/-- R105, R107: words known to be an operation's encoding decode to it. -/
theorem decode_of_encode_eq {p : Params} (i : Instr) (ws rest : List Word) (hwf : i.wf p = true) (he : encode i = ws) :
    decode p i.port (ws ++ rest) = .cmd i ws.length :=
  he ▸ decode_encode_append hwf rest

/-- Settles O6: each example is the encoding of the operation it stands for. -/
theorem exampleWordsDecode : Obligations.ExampleWordsDecode := by
  unfold Obligations.ExampleWordsDecode
  intro rest
  exact ⟨
    decode_of_encode_eq (.initTx 14 false false false 58 100) [0x00000E01, 0x0064003A] rest rfl (by decide),
    decode_of_encode_eq (.packet [0x03, 0x81, 0x82]) [0x00000302, 0x00828103] rest rfl (by decide),
    decode_of_encode_eq (.packet []) [0x00000002] rest rfl (by decide),
    decode_of_encode_eq (.setOvrMask 1) [0x00000005, 0x00000001, 0x00000000] rest rfl (by decide),
    decode_of_encode_eq (.setOvrDelta .n (-10)) [0x00000106, 0xFFFFFFF6] rest rfl (by decide),
    decode_of_encode_eq (.setBidiThreshold 0x123) [0x01230007] rest rfl (by decide),
    decode_of_encode_eq (.rxInit true) [0x00000108] rest rfl (by decide),
    decode_of_encode_eq (.readReg 0x1F) [0x00001F0B] rest rfl (by decide),
    decode_of_encode_eq (.readBuf 0x20) [0x0000200C] rest rfl (by decide),
    decode_of_encode_eq (.rxCapture 1000) [0x00000081, 0x000003E8] rest rfl (by decide),
    decode_of_encode_eq (.bidiByte 0x99) [0x00009982] rest rfl (by decide)⟩

/-! ### The header's reserved bits (R93, R333) -/

theorem headerWord_fields (w : Word) : headerWord (opcField w) (aField w) (bField w) = w := by
  apply BitVec.eq_of_getLsbD_eq
  intro i hi
  rw [getLsbD_headerWord, opcField, aField, bField]
  simp only [BitVec.getLsbD_extractLsb']
  split
  · simp [*]
  · split
    · have h8 : i - 8 < 8 := by omega
      have hs : 8 + (i - 8) = i := by omega
      simp [h8, hs]
    · have h16 : i - 16 < 16 := by omega
      have hs : 16 + (i - 16) = i := by omega
      simp [h16, hs]

/-- Two headers of one opcode are the same exactly when their fields are. -/
theorem headerWord_inj {opc a a' : Byte} {b b' : BitVec 16} :
    headerWord opc a b = headerWord opc a' b' ↔ a = a' ∧ b = b' := by
  constructor
  · intro h
    exact ⟨by simpa using congrArg aField h, by simpa using congrArg bField h⟩
  · rintro ⟨rfl, rfl⟩
    rfl

/-- The bits of a field from bit `k` up are all 0 exactly when the field's value has nothing above bit `k`. -/
theorem and_ones_shifted_eq_zero_iff {w : Nat} (v : BitVec w) (k : Nat) :
    v &&& BitVec.ofNat w ((2 ^ w - 1) * 2 ^ k) = 0#w ↔ v.toNat / 2 ^ k = 0 := by
  have hmask (i : Nat) (hi : i < w) :
      (v &&& BitVec.ofNat w ((2 ^ w - 1) * 2 ^ k)).getLsbD i = (decide (k ≤ i) && v.getLsbD i) := by
    have hsub : i - k < w := by omega
    rw [BitVec.getLsbD_and, BitVec.getLsbD_ofNat, Nat.testBit_mul_two_pow, Nat.testBit_two_pow_sub_one]
    simp [hi, hsub, Bool.and_comm]
  rw [Nat.div_eq_zero_iff_lt (Nat.two_pow_pos k)]
  constructor
  · intro h
    refine Nat.lt_pow_two_of_testBit _ fun i hk => ?_
    by_cases hi : i < w
    · have hbit := hmask i hi
      rw [h, BitVec.getLsbD_zero, decide_eq_true hk, Bool.true_and] at hbit
      exact hbit.symm
    · exact BitVec.getLsbD_of_ge v i (by omega)
  · intro h
    apply BitVec.eq_of_getLsbD_eq
    intro i hi
    by_cases hk : k ≤ i
    · have hv : v.getLsbD i = false :=
        Nat.testBit_lt_two_pow (h.trans_le (Nat.pow_le_pow_right (by decide) hk))
      simp [hmask i hi, hv]
    · simp [hmask i hi, hk]

theorem headerReservedSet_iff {p : Params} {op : Op} {a : Byte} {b : BitVec 16} :
    headerReservedSet p op (headerWord op.code a b) = true ↔ a &&& op.aMask ≠ 0 ∨ b &&& op.bMask p ≠ 0 := by
  have hc : op.code &&& 0xFF = op.code := BitVec.and_allOnes
  rw [headerReservedSet, mask_eq_headerWord, headerWord_and, hc, Op.matchWord, bne_iff_ne, Ne, headerWord_inj]
  exact not_and_or

/-! ### PACKET's padding bytes (R68, R95) -/

/-- R68, R95: byte `k` of the unpacked payload. -/
theorem unpackBytes_getD (ws : List Word) (k : Nat) : (unpackBytes ws).getD k 0 = payloadByte ws k := by
  induction ws generalizing k with
  | nil => simp [payloadByte]
  | cons w ws ih =>
    match k with
    | 0 | 1 | 2 | 3 => rfl
    | k + 4 =>
      have hd : (k + 4) / 4 = k / 4 + 1 := by omega
      have hm : (k + 4) % 4 = k % 4 := by omega
      simpa [bytesOfWord, payloadByte, hd, hm] using ih k

/-- R68: packing the bytes of words gives the words. -/
theorem packBytes_unpackBytes (ws : List Word) : packBytes (unpackBytes ws) = ws := by
  induction ws with
  | nil => rfl
  | cons w ws ih => simp [bytesOfWord, packBytes, ih]

/-- R95: packing the first `n` bytes of words gives the words back if they are as many as `n` bytes take and the bytes
left out are padding zeros. -/
theorem packBytes_take_unpackBytes {ws : List Word} {n : Nat} (hlen : ws.length = (n + 3) / 4)
    (hpad : ∀ x ∈ (unpackBytes ws).drop n, x = 0) : packBytes ((unpackBytes ws).take n) = ws := by
  have hn : ((unpackBytes ws).take n).length = n := by simp; omega
  have hzero : (unpackBytes ws).drop n = List.replicate (4 * ((n + 3) / 4) - n) 0 :=
    List.eq_replicate_iff.2 ⟨by simp [hlen], hpad⟩
  apply Function.LeftInverse.injective packBytes_unpackBytes
  rw [unpackBytes_packBytes, hn]
  calc (unpackBytes ws).take n ++ List.replicate (4 * ((n + 3) / 4) - n) 0
      = (unpackBytes ws).take n ++ (unpackBytes ws).drop n := by rw [hzero]
    _ = unpackBytes ws := List.take_append_drop ..

theorem exists_mem_drop_unpackBytes_iff {ws : List Word} {n : Nat} :
    (∃ x ∈ (unpackBytes ws).drop n, x ≠ 0) ↔ ∃ k, n ≤ k ∧ k < 4 * ws.length ∧ payloadByte ws k ≠ 0 := by
  constructor
  · rintro ⟨x, hx, h0⟩
    obtain ⟨j, hj, rfl⟩ := List.mem_iff_getElem.1 hx
    simp only [List.length_drop, unpackBytes_length] at hj
    refine ⟨n + j, by omega, by omega, ?_⟩
    rw [← unpackBytes_getD, List.getD_eq_getElem _ _ (by simp; omega)]
    simpa using h0
  · rintro ⟨k, hn, hk, h0⟩
    rw [← unpackBytes_getD, List.getD_eq_getElem _ _ (by simpa using hk)] at h0
    exact ⟨_, List.mem_drop_iff_getElem.2 ⟨k - n, by simp; omega, by simp [hn]⟩, h0⟩

/-! ### The reserved bits are those R333 lists -/

/-- R93, R95, R101, R333: the decoder finds a reserved bit set exactly when one of R333's list is. -/
theorem reservedSet_iff {p : Params} {op : Op} {a : Byte} {b : BitVec 16} {payload : List Word} :
    (headerReservedSet p op (headerWord op.code a b) || payloadReservedSet p op (headerWord op.code a b) payload) = true ↔
      ReservedNonzero p op a b payload := by
  have ha : a &&& 0xFF = a := BitVec.and_allOnes
  have hb : b &&& 0xFFFF = b := BitVec.and_allOnes
  have ha1 : a &&& 0xFE = 0 ↔ a.toNat / 2 = 0 := and_ones_shifted_eq_zero_iff a 1
  have hb3 : b &&& 0xFFF8 = 0 ↔ b.toNat / 2 ^ 3 = 0 := and_ones_shifted_eq_zero_iff b 3
  have hbk : b &&& BitVec.ofNat 16 (0xFFFF * 2 ^ p.dacBits) = 0 ↔ b.toNat / 2 ^ p.dacBits = 0 :=
    and_ones_shifted_eq_zero_iff b p.dacBits
  have ha0 : a &&& 0 = 0 := BitVec.and_zero
  rw [Bool.or_eq_true, headerReservedSet_iff]
  cases op
  case packet =>
    simp only [ReservedNonzero, ← exists_mem_drop_unpackBytes_iff, payloadReservedSet, Op.aMask, Op.bMask, ha0, hb, ne_eq,
      not_true, false_or, aField_headerWord, List.any_eq_true, bne_iff_ne]
  case rxCapture =>
    have hc : (payload.getD 0 0).toNat / 2 ^ p.capBits = 0 ↔ ¬ 2 ^ p.capBits ≤ (payload.getD 0 0).toNat := by
      rw [Nat.div_eq_zero_iff_lt (Nat.two_pow_pos _), Nat.not_le]
    simp only [ReservedNonzero, payloadReservedSet, Op.aMask, Op.bMask, ha, hb, hc, decide_eq_true_eq, ne_eq, not_not,
      or_assoc]
  all_goals
    simp only [ReservedNonzero, payloadReservedSet, Op.aMask, Op.bMask, ha0, ha, ha1, hb, hb3, hbk, ne_eq, not_true,
      false_or, or_false, Bool.false_eq_true]

/-! ### The decoder on a whole transaction (R103, R105) -/

/-- R105: every transaction has a header. -/
theorem Op.words_pos (op : Op) (a : Byte) : 1 ≤ op.words a := by
  cases op <;> simp [Op.words]

section

variable {p : Params} {op : Op} {a : Byte} {b : BitVec 16} {payload : List Word}

/-- R103, R105: the decoder on a header and as many payload words as the header's row has. -/
theorem decode_transaction (hlen : payload.length + 1 = op.words a) (rest : List Word) :
    decode p op.port (headerWord op.code a b :: (payload ++ rest)) =
      if headerReservedSet p op (headerWord op.code a b) || payloadReservedSet p op (headerWord op.code a b) payload then
        .fieldInvalid (payload.length + 1)
      else .cmd (op.operands (headerWord op.code a b) payload) (payload.length + 1) := by
  simp only [decode, ofHeader_headerWord, aField_headerWord, ← hlen]
  simp

theorem decode_of_reservedNonzero (hlen : payload.length + 1 = op.words a) (rest : List Word)
    (hr : ReservedNonzero p op a b payload) :
    decode p op.port (headerWord op.code a b :: (payload ++ rest)) = .fieldInvalid (payload.length + 1) := by
  rw [decode_transaction hlen, if_pos (reservedSet_iff.2 hr)]

theorem decode_of_not_reservedNonzero (hlen : payload.length + 1 = op.words a) (rest : List Word)
    (hr : ¬ ReservedNonzero p op a b payload) :
    decode p op.port (headerWord op.code a b :: (payload ++ rest)) =
      .cmd (op.operands (headerWord op.code a b) payload) (payload.length + 1) := by
  rw [decode_transaction hlen, if_neg (mt reservedSet_iff.1 hr)]

/-! ### A transaction without reserved bits is the encoding of what it decodes to (R94-R101) -/

@[simp] theorem op_operands (op : Op) (w0 : Word) (payload : List Word) : (op.operands w0 payload).op = op := by
  cases op <;> rfl

/-- R95: PACKET's bytes are as many as its `A` field says. -/
theorem length_packet_bytes (hlen : payload.length + 1 = Op.packet.words a) :
    ((unpackBytes payload).take a.toNat).length = a.toNat := by
  simp only [Op.words] at hlen
  simp only [List.length_take, unpackBytes_length]
  omega

theorem wf_operands (hlen : payload.length + 1 = op.words a) (hr : ¬ ReservedNonzero p op a b payload) :
    (op.operands (headerWord op.code a b) payload).wf p = true := by
  cases op
  case packet =>
    have ha : a.toNat ≤ 255 := Nat.le_of_lt_succ a.isLt
    simpa only [Op.operands, Instr.wf, aField_headerWord, length_packet_bytes hlen, decide_eq_true_eq] using ha
  case setBidiThreshold =>
    simp only [ReservedNonzero, not_or, not_not, Nat.div_eq_zero_iff_lt (Nat.two_pow_pos _)] at hr
    simpa only [Op.operands, Instr.wf, bField_headerWord, decide_eq_true_eq] using hr.2
  case rxCapture =>
    simp only [ReservedNonzero, not_or, not_not, Nat.div_eq_zero_iff_lt (Nat.two_pow_pos _)] at hr
    simpa only [Op.operands, Instr.wf, decide_eq_true_eq] using hr.2.2
  all_goals rfl

/-- R97, R99: an `A` field of one operand bit is 0 or 1. -/
theorem eq_zero_or_one_of_div_two_eq_zero (h : a.toNat / 2 = 0) : a = 0 ∨ a = 1 := by
  bv_omega

/-- R94: a `B` field of three operand bits is made of these bits. -/
theorem append_bits_of_div_eight_eq_zero (h : b.toNat / 2 ^ 3 = 0) :
    0#13 ++ BitVec.ofBool (b.getLsbD 2) ++ BitVec.ofBool (b.getLsbD 1) ++ BitVec.ofBool (b.getLsbD 0) = b := by
  obtain ⟨c, rfl⟩ : ∃ c : BitVec 3, b = c.setWidth 16 :=
    ⟨BitVec.ofNat 3 b.toNat, by apply BitVec.eq_of_toNat_eq; simp; omega⟩
  clear h
  decide +revert

theorem aOperand_operands (hlen : payload.length + 1 = op.words a) (hr : ¬ ReservedNonzero p op a b payload) :
    (op.operands (headerWord op.code a b) payload).aOperand = a := by
  cases op <;> simp only [ReservedNonzero, not_or, not_not] at hr
  case packet => simp [Op.operands, Instr.aOperand, length_packet_bytes hlen]
  case setOvrDelta | rxInit =>
    simp only [Op.operands, getLsbD_headerWord]
    obtain rfl | rfl := eq_zero_or_one_of_div_two_eq_zero hr.1 <;> rfl
  case initTx | readReg | readBuf | bidiByte => exact aField_headerWord _ _ _
  all_goals exact hr.1.symm

theorem bOperand_operands (hr : ¬ ReservedNonzero p op a b payload) :
    (op.operands (headerWord op.code a b) payload).bOperand = b := by
  cases op <;> simp only [ReservedNonzero, not_or, not_not] at hr
  case initTx =>
    simp only [Op.operands, Instr.bOperand, getLsbD_headerWord]
    exact append_bits_of_div_eight_eq_zero hr
  case setBidiThreshold => exact bField_headerWord _ _ _
  case packet => exact hr.1.symm
  case rxCapture => exact hr.2.1.symm
  case readReg | readBuf | bidiByte => exact hr.symm
  all_goals exact hr.2.symm

theorem payload_operands (hlen : payload.length + 1 = op.words a) (hr : ¬ ReservedNonzero p op a b payload) :
    (op.operands (headerWord op.code a b) payload).payload = payload := by
  cases op <;> simp only [Op.words, Nat.reduceEqDiff, Nat.add_eq_right] at hlen
  case initTx =>
    obtain ⟨w, rfl⟩ := List.length_eq_one_iff.1 hlen
    have hw : w.extractLsb' 16 16 ++ w.extractLsb' 0 16 = w := BitVec.extractLsb'_append_extractLsb'
    simp [Op.operands, Instr.payload, hw]
  case packet =>
    simp only [ReservedNonzero, ← exists_mem_drop_unpackBytes_iff, not_or, not_exists, not_and, not_not] at hr
    simpa only [Op.operands, Instr.payload, aField_headerWord] using
      packBytes_take_unpackBytes (by omega) hr.2
  case setOvrMask =>
    obtain ⟨lo, hi, rfl⟩ := List.length_eq_two.1 hlen
    have hlo : (hi ++ lo).extractLsb' 0 32 = lo := BitVec.extractLsb'_append_eq_right
    have hhi : (hi ++ lo).extractLsb' 32 32 = hi := BitVec.extractLsb'_append_eq_left
    simp [Op.operands, Instr.payload, hlo, hhi]
  case setOvrDelta | rxCapture =>
    obtain ⟨w, rfl⟩ := List.length_eq_one_iff.1 hlen
    rfl
  all_goals exact (List.eq_nil_of_length_eq_zero hlen).symm

/-- R94-R101, R107: encoding the operation that a transaction without reserved bits decodes to gives its words back. -/
theorem encode_operands (hlen : payload.length + 1 = op.words a) (hr : ¬ ReservedNonzero p op a b payload) :
    encode (op.operands (headerWord op.code a b) payload) = headerWord op.code a b :: payload := by
  rw [encode, op_operands, aOperand_operands hlen hr, bOperand_operands hr, payload_operands hlen hr]

end

/-- R105: a header and at least as many words behind it as its row has are a transaction and the words after it. -/
theorem exists_transaction_of_ofHeader {port : Port} {w0 : Word} {tail : List Word} {op : Op}
    (hop : Op.ofHeader port w0 = some op) (hn : op.words (aField w0) ≤ tail.length + 1) :
    ∃ (a : Byte) (b : BitVec 16) (payload rest : List Word),
      op.port = port ∧ w0 :: tail = headerWord op.code a b :: (payload ++ rest) ∧ payload.length + 1 = op.words a := by
  obtain ⟨hcode, hport⟩ := ofHeader_some hop
  have hpos := op.words_pos (aField w0)
  refine ⟨aField w0, bField w0, tail.take (op.words (aField w0) - 1), tail.drop (op.words (aField w0) - 1), hport, ?_, ?_⟩
  · rw [hcode, headerWord_fields, List.take_append_drop]
  · rw [List.length_take]
    omega

/-- R103, R105: words that decode to an operation begin with a transaction of which no reserved bit is set, and the
operation is the one its operands make. -/
theorem exists_transaction_of_decode_cmd {p : Params} {port : Port} {ws : List Word} {i : Instr} {n : Nat}
    (h : decode p port ws = .cmd i n) :
    ∃ (op : Op) (a : Byte) (b : BitVec 16) (payload rest : List Word),
      op.port = port ∧ ws = headerWord op.code a b :: (payload ++ rest) ∧ payload.length + 1 = op.words a ∧
      ¬ ReservedNonzero p op a b payload ∧
      i = op.operands (headerWord op.code a b) payload ∧ n = payload.length + 1 := by
  match ws with
  | [] => simp [decode] at h
  | w0 :: tail =>
    cases hop : Op.ofHeader port w0 with
    | none => simp [decode, hop] at h
    | some op =>
      have hn : op.words (aField w0) ≤ tail.length + 1 := by
        by_contra hshort
        simp [decode, hop, Nat.lt_of_not_le hshort] at h
      obtain ⟨a, b, payload, rest, rfl, hws, hlen⟩ := exists_transaction_of_ofHeader hop hn
      rw [hws] at h
      by_cases hr : ReservedNonzero p op a b payload
      · rw [decode_of_reservedNonzero hlen rest hr] at h
        cases h
      · rw [decode_of_not_reservedNonzero hlen rest hr, Decoded.cmd.injEq] at h
        obtain ⟨hi, hcount⟩ := h
        exact ⟨op, a, b, payload, rest, rfl, hws, hlen, hr, hi.symm, hcount.symm⟩

/-- Settles O2: words that decode are a transaction without reserved bits, which is the encoding of its operation. -/
theorem encodeOfDecode : Obligations.EncodeOfDecode := by
  unfold Obligations.EncodeOfDecode
  intro p port ws i n h
  obtain ⟨op, a, b, payload, rest, rfl, rfl, hlen, hr, rfl, rfl⟩ := exists_transaction_of_decode_cmd h
  refine ⟨by rw [Instr.port, op_operands], wf_operands hlen hr, ?_, ?_⟩
  · rw [encode_operands hlen hr, List.length_cons]
  · rw [encode_operands hlen hr, List.take_succ_cons, List.take_left]

/-- Settles O3: the decoder finds no reserved bit set, and the operands it reads are of the header's row. -/
theorem legalTransactionDecodes : Obligations.LegalTransactionDecodes := by
  unfold Obligations.LegalTransactionDecodes
  intro p op a b payload rest hlen hr
  exact ⟨_, op_operands .., decode_of_not_reservedNonzero hlen rest hr⟩

end Sys2Proof

namespace Sys2Proof.Machine

/-! ### A step whose port holds a transaction with a reserved bit (R103) -/

/-- R103, R340: the step consumes the transaction's words and raises FIELD_INVALID. -/
theorem step_of_fetch_fieldInvalid {s : State} {port : Port} {turns : List Port} {n : Nat}
    (hv : s.params.valid = true) (ht : s.ports.turns = port :: turns) (hf : fetch s port = .fieldInvalid n) :
    step s = .next (raise .fieldInvalid (consumed port n s)) := by
  simp [step, hv, ht, hf]

/-- R330, R340: a fault taken after words are consumed changes only FAULT. -/
theorem faultedOnly_raise_consumed (c : FaultCode) (port : Port) (n : Nat) (s : State) :
    FaultedOnly c { s with ports := (raise c (consumed port n s)).ports } (raise c (consumed port n s)) :=
  ⟨rfl, rfl, rfl, rfl, rfl, fun _ => rfl, rfl, rfl, rfl⟩

/-- Settles O4: the decoder answers FIELD_INVALID for the words, so the step consumes them and raises it. -/
theorem reservedBitFaultsFieldInvalid : Obligations.ReservedBitFaultsFieldInvalid := by
  unfold Obligations.ReservedBitFaultsFieldInvalid
  intro s op a b payload rest turns hv ht hw hlen hr
  have hf : fetch s op.port = .fieldInvalid (payload.length + 1) := by
    rw [fetch, hw, decode_of_reservedNonzero hlen rest hr]
  refine ⟨_, step_of_fetch_fieldInvalid hv ht hf, ?_, ?_, ?_, faultedOnly_raise_consumed ..⟩
  · simp [hw]
  · simp [ht]
  · intro q hq
    simp [Ports.words_consume_of_ne _ hq]

end Sys2Proof.Machine
end

section
/-! SUPPORT. The two half-period lengths of an accepted configuration (40_timing_table.md R130, R131, R133). -/

namespace Sys2Proof.Machine

/-! ### What the constraints of R5 give on the half-periods -/

section
variable {p : Params} (hp : p.valid = true)
include hp

theorem ticksPerUs_pos : 0 < p.ticksPerUs := by
  simp only [Params.valid, decide_eq_true_eq] at hp
  exact hp.1

theorem bit1MaxUs_lt_bit0MinUs : p.bit1MaxUs < p.bit0MinUs := by
  simp only [Params.valid, decide_eq_true_eq] at hp
  omega

end

/-! ### The lengths of an accepted configuration -/

section
variable {p : Params} {cfg : TxCfg}

/-- R133: the bands of R336 do not meet, so the longest "1" half-period is shorter than the shortest "0" one. -/
theorem CfgOk.bit1Us_lt_bit0Us (h : CfgOk p cfg) (hp : p.valid = true) : cfg.bit1Us.toNat < cfg.bit0Us.toNat :=
  calc cfg.bit1Us.toNat
    _ ≤ p.bit1MaxUs := h.bit1Max
    _ < p.bit0MinUs := bit1MaxUs_lt_bit0MinUs hp
    _ ≤ cfg.bit0Us.toNat := h.bit0Min

/-- R133, R131: a microsecond is at least one tick, so the conversion keeps the order strict. -/
theorem CfgOk.bit1Ticks_lt_bit0Ticks (h : CfgOk p cfg) (hp : p.valid = true) :
    cfg.bit1Ticks.toNat < cfg.bit0Ticks.toNat := by
  rw [h.bit1Ticks, h.bit0Ticks]
  exact Nat.mul_lt_mul_of_pos_right (h.bit1Us_lt_bit0Us hp) (ticksPerUs_pos hp)

/-- R130: with different lengths, a half-period tells its bit. -/
theorem halfPeriod_eq_bit0Ticks_iff (h : cfg.bit1Ticks ≠ cfg.bit0Ticks) (b : Bool) :
    halfPeriod b cfg = cfg.bit0Ticks ↔ b = false := by
  cases b with
  | false => exact iff_of_true rfl rfl
  | true => exact iff_of_false h Bool.noConfusion

end

/-- Settles O29: the invariant's configuration has its lengths in order, so they differ and the half-period tells the
bit. -/
theorem oneBitsAreShorter : Obligations.OneBitsAreShorter := by
  unfold Obligations.OneBitsAreShorter
  intro s hi hrun
  have hlt := (hi.tx.cfg hrun).bit1Ticks_lt_bit0Ticks hi.params
  exact ⟨hlt, halfPeriod_eq_bit0Ticks_iff fun e => hlt.ne (congrArg BitVec.toNat e)⟩

end Sys2Proof.Machine
end

section
/-! SUPPORT. The host's commands of the transmit engine (41_tx_engine.md R157-R161): the bounds of INIT_TX, the latch, and
what each accepted command leaves. -/

namespace Sys2Proof.Machine

/-! ### The commands where they are accepted -/

section
variable {s : State}

theorem tickRange_iff {p : Params} {t : Nat} : tickRange p t = true ↔ 1 ≤ t ∧ t ≤ p.arrMax := by
  simp only [tickRange, Bool.and_eq_true, decide_eq_true_eq]

/-- R158, R336: the bounds as INIT_TX checks them are those R336 lists. -/
theorem configOk_iff_acceptedConfig {p : Params} {np : Byte} {bidi : Bool} {b1 b0 : BitVec 16} :
    configOk p np bidi b1 b0 = true ↔ AcceptedConfig p np bidi b1 b0 := by
  simp only [configOk, decide_eq_true_eq, tickRange_iff, usToTicks, bidiTicks, cutoutPhases, List.forall_mem_cons,
    List.not_mem_nil, false_implies, implies_true, and_true, bidiUs]
  constructor
  · rintro ⟨hmin, hmax, h1, h1', h0, ht1, ht0, hs⟩
    exact ⟨⟨hmin, hmax⟩, ⟨h1, h1'⟩, h0, ht1, ht0, hs⟩
  · rintro ⟨⟨hmin, hmax⟩, ⟨h1, h1'⟩, h0, ht1, ht0, hs⟩
    exact ⟨hmin, hmax, h1, h1', h0, ht1, ht0, hs⟩

theorem execInitTx_of_accepted {np : Byte} {bidi : Bool} (invert trig : Bool) {b1 b0 : BitVec 16}
    (hr : s.tx.run = .uninit ∨ s.tx.run = .stopped) (hc : AcceptedConfig s.params np bidi b1 b0) :
    execInitTx np bidi invert trig b1 b0 s = .next (finish (configure np bidi invert trig b1 b0 s)) := by
  have hok := configOk_iff_acceptedConfig.mpr hc
  unfold execInitTx
  rcases hr with hr | hr <;> simp only [hr, hok, if_true]

theorem execPacket_of_le {bytes : List Byte} (hl : bytes.length ≤ s.params.pktCapacity) :
    execPacket bytes s = .next (finish (fillMailbox bytes s)) :=
  if_neg (by omega)

theorem execStart_of_stopped (hr : s.tx.run = .stopped) : execStart s = .next (finish (startFrame s)) := by
  simp only [execStart, hr]

/-! ### Lengths in their fields -/

/-- R26, R27: a packet within PKT_CAPACITY has a length of 8 bits. -/
theorem toNat_ofNat_length {p : Params} (hp : p.valid = true) {bytes : List Byte}
    (hl : bytes.length ≤ p.pktCapacity) : (BitVec.ofNat 8 bytes.length).toNat = bytes.length := by
  have hcap : p.pktCapacity ≤ 32 := pktCapacity_le_packetRegion hp
  rw [BitVec.toNat_ofNat, Nat.mod_eq_of_lt (by omega)]

/-- R131: a length in ticks within ARR_MAX fits its register. -/
theorem toNat_ofNat_usToTicks {p : Params} (hp : p.valid = true) {us : BitVec 16}
    (hl : us.toNat * p.ticksPerUs ≤ p.arrMax) :
    (BitVec.ofNat 32 (usToTicks p us)).toNat = us.toNat * p.ticksPerUs := by
  have hmax := arrMax_lt_two_pow hp
  rw [usToTicks, BitVec.toNat_ofNat, Nat.mod_eq_of_lt (by omega)]

/-! ### The latch (R157) -/

theorem mailboxHasPacket_iff : mailboxHasPacket s = true ↔ s.tx.mboxFull = true ∧ 1 ≤ s.tx.mboxLen.toNat := by
  simp [mailboxHasPacket]

theorem enterFrame_read_act (hw : s.mem.wf = true) {i : Nat} (hi : i < packetRegion) :
    (enterFrame s).mem.read (actBase + i) = latchedByte s i := by
  have hbase : packetRegion ≤ actBase := by decide
  rw [enterFrame_read hw, if_neg (by omega), if_pos (by omega), Nat.add_sub_cancel_left]

/-- R157: a latch changes no byte outside MBOX and ACT. -/
theorem enterFrame_sameOutside_packets (hw : s.mem.wf = true) :
    SameMemoryOutside (fun a => InRegion mboxBase packetRegion a ∨ InRegion actBase packetRegion a) s
      (enterFrame s) := fun a ha =>
  calc (enterFrame s).mem.read a
    _ = (s.mem.fill actBase packetRegion (latchedByte s)).read a :=
      Memory.read_fill_outside (Memory.fill_wf hw _ _ _) _ (by decide) fun h => ha (.inl h)
    _ = s.mem.read a := Memory.read_fill_outside hw _ (by decide) fun h => ha (.inr h)

theorem mailboxCleared_enterFrame (hw : s.mem.wf = true) : MailboxCleared (enterFrame s) := by
  refine ⟨rfl, rfl, fun i hi => ?_⟩
  rw [enterFrame_read hw, mboxBase, Nat.zero_add, if_pos hi]

theorem latchedFrom_enterFrame (hp : s.params.valid = true) (hw : s.mem.wf = true) :
    LatchedFrom s (enterFrame s) := by
  have hact := fun i hi => enterFrame_read_act hw (i := i) hi
  by_cases hb : s.tx.mboxFull = true ∧ 1 ≤ s.tx.mboxLen.toNat
  · have hbox := mailboxHasPacket_iff.mpr hb
    rw [LatchedFrom, if_pos hb]
    refine ⟨if_pos hbox, fun i hi => (hact i hi).trans (if_pos hbox)⟩
  · have hbox : ¬ mailboxHasPacket s = true := fun h => hb (mailboxHasPacket_iff.mp h)
    rw [LatchedFrom, if_neg hb]
    refine ⟨?_, fun i hi => (hact i hi).trans (if_neg hbox)⟩
    rw [enterFrame_tx, latchedLen, if_neg hbox]
    exact toNat_ofNat_length hp (idlePacket_length_range hp).2

/-- R157: the latch depends on the mailbox and the parameters only. -/
theorem LatchedFrom.congr {s' t : State} (h : LatchedFrom s' t) (hf : s'.tx.mboxFull = s.tx.mboxFull)
    (hl : s'.tx.mboxLen = s.tx.mboxLen) (hp : s'.params = s.params)
    (hm : ∀ i < packetRegion, s'.mem.read (mboxBase + i) = s.mem.read (mboxBase + i)) : LatchedFrom s t := by
  unfold LatchedFrom at h ⊢
  rw [hf, hl, hp] at h
  split at h
  · rename_i hb
    obtain ⟨hlen, hact⟩ := h
    rw [if_pos hb]
    exact ⟨hlen, fun i hi => (hact i hi).trans (hm i hi)⟩
  · rename_i hb
    rwa [if_neg hb]

end

/-! ### The statements -/

/-- Settles O9: the bounds of R336 are those INIT_TX checks, and the lengths in ticks fit their registers. -/
theorem initTxConfigures : Obligations.InitTxConfigures := by
  unfold Obligations.InitTxConfigures
  intro s np bidi invert trig bit1Us bit0Us hp hw hr hc
  refine ⟨_, execInitTx_of_accepted invert trig hr hc, rfl, rfl, rfl, rfl, rfl, rfl, rfl, ?_, ?_, rfl, rfl, rfl, rfl,
    rfl, rfl, rfl, rfl, rfl, rfl, rfl, rfl, rfl, rfl, rfl, rfl, ?_, ?_⟩
  · exact toNat_ofNat_usToTicks hp hc.ticks1.2
  · exact toNat_ofNat_usToTicks hp hc.ticks0.2
  · exact fun a ha => configure_read_of_txAddress hw np bidi invert trig bit1Us bit0Us ha
  · exact configure_sameOutside hw np bidi invert trig bit1Us bit0Us

/-- Settles O11: an accepted PACKET fills MBOX and records its length. -/
theorem packetFillsMailbox : Obligations.PacketFillsMailbox := by
  unfold Obligations.PacketFillsMailbox
  intro s bytes hp hw hl
  refine ⟨_, execPacket_of_le hl, toNat_ofNat_length hp hl, rfl, fun i hi => ?_, fun a ha => ?_, rfl, rfl, rfl, rfl, rfl,
    rfl, rfl⟩
  · rw [finish_mem, fillMailbox_mem, Memory.read_fill hw _ _ _ _ (by decide), if_pos (by omega),
      Nat.add_sub_cancel_left]
  · exact Memory.read_fill_outside hw _ (by decide) ha

/-- Settles O13: an accepted START latches the packet of its first frame. -/
theorem startLatchesAndRuns : Obligations.StartLatchesAndRuns := by
  unfold Obligations.StartLatchesAndRuns
  intro s hp hw hr
  exact ⟨_, execStart_of_stopped hr, rfl, latchedFrom_enterFrame hp hw, mailboxCleared_enterFrame hw,
    enterFrame_sameOutside_packets hw, rfl, rfl, rfl, rfl, rfl, rfl, rfl⟩

/-- Settles O14: STOP in Running, and in the other run states. -/
theorem stopRequests : Obligations.StopRequests := by
  unfold Obligations.StopRequests
  intro s
  by_cases hr : s.tx.run = .running
  · refine ⟨finish { s with tx := { s.tx with stopReq := true } }, ?_, fun _ => rfl, fun h => absurd hr h,
      fun _ => rfl, rfl, rfl, rfl, rfl, rfl, rfl, rfl⟩
    simp only [exec, execStop, hr]
  · refine ⟨finish s, ?_, fun h => absurd h hr, fun _ => rfl, fun _ => rfl, rfl, rfl, rfl, rfl, rfl, rfl, rfl⟩
    simp only [exec, execStop]
    cases hs : s.tx.run <;> simp [hs] at hr ⊢

end Sys2Proof.Machine
end

section
/-! SUPPORT. TX_UPDATE (41_tx_engine.md R154, R162): the step of a Running engine as a relation of three cases, and what
each case leaves. -/

namespace Sys2Proof.Machine

/-! ### The emitted slot -/

/-- R162: the state after the preload became active and the cursor's slot was emitted. -/
abbrev emitted (s : State) : State := emit s.tx.cursor (loadActive s)

/-- R154: of the engine's fields `emit` changes the polarity and the pins only. -/
theorem emitted_tx (s : State) :
    (emitted s).tx =
      { s.tx with arrActive := s.tx.arrPreload, pol := (emitted s).tx.pol, pins := (emitted s).tx.pins } := by
  unfold emitted emit
  cases s.tx.cursor.phase <;> rfl

theorem emitted_wf {s : State} (h : Inv s) : (emitted s).mem.wf = true := emit_wf (s := loadActive s) h.mem _

/-- R154: the return channel's buffers are the only bytes a slot's emission changes. -/
theorem emitted_sameOutside {s : State} (h : Inv s) :
    SameMemoryOutside (fun a => InRegion brawBase bidiRegion a ∨ InRegion bsnapBase bidiRegion a) s (emitted s) :=
  fun a ha => emit_read (s := loadActive s) h.mem _ a ⟨fun hin => ha (.inl hin), fun hin => ha (.inr hin)⟩

/-- R154: the packets and the receive side's buffers stand below those of the return channel. -/
theorem emitted_read_of_lt {s : State} (h : Inv s) {a : Nat} (hlt : a < brawBase) :
    (emitted s).mem.read a = s.mem.read a := by
  refine emitted_sameOutside h a ?_
  simp only [InRegion, brawBase, bsnapBase] at *
  omega

/-! ### The three cases of a Running engine's step -/

/-- R162: the state and the slot length that a Running engine's step comes to before the reload is written. -/
inductive Advances (s : State) : State → Int → Prop
  /-- the frame ends and a STOP is pending -/
  | halt (hn : nextSlot s.tx.cfg s.tx.actLen s.tx.cursor = none) (hs : s.tx.stopReq = true) :
    Advances s (wrapHalting (emitted s)) s.tx.cfg.bit1Ticks.toNat
  /-- the frame ends and the next packet is latched -/
  | latch (hn : nextSlot s.tx.cfg s.tx.actLen s.tx.cursor = none) (hs : s.tx.stopReq = false) :
    Advances s (setCursor .first (enterFrame (emitted s))) s.tx.cfg.bit1Ticks.toNat
  /-- the cursor goes on in the frame -/
  | move {c : Cursor} {r : Int} (hn : nextSlot s.tx.cfg s.tx.actLen s.tx.cursor = some c) (hd : dur s c = .ok r) :
    Advances s (setCursor c (emitted s)) r

/-- R162: a step comes to one state with one length. -/
theorem Advances.unique {s u v : State} {q r : Int} (h : Advances s u q) (h' : Advances s v r) : u = v ∧ q = r := by
  cases h with
  | halt hn hs =>
    cases h' with
    | halt => exact ⟨rfl, rfl⟩
    | latch _ hs' => simp [hs] at hs'
    | move hn' _ => simp [hn] at hn'
  | latch hn hs =>
    cases h' with
    | halt _ hs' => simp [hs] at hs'
    | latch => exact ⟨rfl, rfl⟩
    | move hn' _ => simp [hn] at hn'
  | move hn hd =>
    cases h' with
    | halt hn' _ => simp [hn] at hn'
    | latch hn' _ => simp [hn] at hn'
    | move hn' hd' =>
      obtain rfl := Option.some.inj (hn.symm.trans hn')
      exact ⟨rfl, Except.ok.inj (hd.symm.trans hd')⟩

theorem emitAndAdvance_advances {s : State} (hi : Inv s) (hr : s.tx.run = .running) :
    ∃ u r, emitAndAdvance s = (u, .ok r) ∧ Advances s u r := by
  obtain ⟨u, r, he, ⟨hn, hs, rfl, rfl⟩ | ⟨hn, hs, rfl, rfl⟩ | ⟨c, hn, -, rfl, hd⟩⟩ := emitAndAdvance_cases hi hr
  · exact ⟨_, _, he, .halt hn hs⟩
  · exact ⟨_, _, he, .latch hn hs⟩
  · exact ⟨_, _, he, .move hn hd⟩

/-- R162: with a length in range the step is done, and the length is preloaded and returned. -/
theorem Advances.execTxUpdate {s u : State} {r : Int} (ha : Advances s u r) (hi : Inv s) (hr : s.tx.run = .running)
    (hrange : reloadOk s.params r = true) : execTxUpdate s = .next (setReload r u) := by
  obtain ⟨u', r', he, ha'⟩ := emitAndAdvance_advances hi hr
  obtain ⟨rfl, rfl⟩ := ha.unique ha'
  simp only [Machine.execTxUpdate, hr, he, hrange, if_true]

/-- R162: a step that a Running engine has done is one of the three cases, with a length in range. -/
theorem txUpdate_done {s t : State} (hi : Inv s) (hr : s.tx.run = .running) (ht : execTxUpdate s = .next t)
    (hk : t.out.kind = .done) : ∃ u r, Advances s u r ∧ reloadOk s.params r = true ∧ t = setReload r u := by
  obtain ⟨u, r, he, ha⟩ := emitAndAdvance_advances hi hr
  rcases execTxUpdate_next ht with
    ⟨h, -⟩ | ⟨h, -⟩ | ⟨h, -⟩ | ⟨-, u', r', he', ⟨hrange, rfl⟩ | ⟨-, rfl⟩⟩
  · simp [hr] at h
  · simp [hr] at h
  · simp [hr] at h
  · obtain ⟨rfl, h⟩ := Prod.mk.inj (he.symm.trans he')
    obtain rfl := Except.ok.inj h
    exact ⟨u, r, ha, hrange, rfl⟩
  · cases hk

/-! ### What the three cases leave -/

namespace Advances

section
variable {s u : State} {r : Int} (ha : Advances s u r)
include ha

theorem outputs : u.tx.pol = (emitted s).tx.pol ∧ u.tx.pins = (emitted s).tx.pins := by
  cases ha <;> exact ⟨rfl, rfl⟩

theorem bidi : u.bidi = (emitted s).bidi := by
  cases ha <;> rfl

/-- R162: what no case changes. -/
theorem frame : u.params = s.params ∧ u.ovr = s.ovr ∧ u.rx = s.rx ∧ u.fault = s.fault ∧ u.ports = s.ports := by
  cases ha <;> simp

/-- R162: the configuration and the pending STOP stay, and the preload is active. -/
theorem kept : u.tx.cfg = s.tx.cfg ∧ u.tx.stopReq = s.tx.stopReq ∧ u.tx.arrActive = s.tx.arrPreload := by
  cases ha <;> simp

/-- R157: after the emission only a latch changes bytes, those of MBOX and ACT. -/
theorem read_of_ge (hi : Inv s) {a : Nat} (hge : rxbBase ≤ a) : u.mem.read a = (emitted s).mem.read a := by
  cases ha with
  | latch =>
    refine enterFrame_sameOutside_packets (emitted_wf hi) a ?_
    simp only [InRegion, mboxBase, actBase, rxbBase, packetRegion] at *
    omega
  | halt | move => rfl

theorem cursor_of_wrap (hn : nextSlot s.tx.cfg s.tx.actLen s.tx.cursor = none) : u.tx.cursor = .first := by
  cases ha with
  | halt | latch => rfl
  | move hn' => simp [hn] at hn'

theorem mem_of_nextSlot {c : Cursor} (hn : nextSlot s.tx.cfg s.tx.actLen s.tx.cursor = some c) :
    u.mem = (emitted s).mem := by
  cases ha with
  | halt hn' | latch hn' => simp [hn] at hn'
  | move => rfl

end

end Advances

/-! ### The reload value -/

/-- R22, R158: the length of a preamble slot is in range. -/
theorem reloadOk_bit1Ticks {s : State} (hi : Inv s) (hr : s.tx.run ≠ .uninit) :
    reloadOk s.params s.tx.cfg.bit1Ticks.toNat = true := by
  obtain ⟨hlo, hhi⟩ := (hi.tx.cfg hr).bit1Range
  simp only [reloadOk, Bool.and_eq_true, decide_eq_true_eq]
  omega

/-- R162: a length in range is what its 32-bit register reads as. -/
theorem toNat_ofInt_of_reloadOk {p : Params} (hp : p.valid = true) {r : Int} (hr : reloadOk p r = true) :
    ((BitVec.ofInt 32 r).toNat : Int) = r := by
  simp only [reloadOk, Bool.and_eq_true, decide_eq_true_eq] at hr
  have hmax := arrMax_lt_two_pow hp
  rw [BitVec.toNat_ofInt]
  omega

/-- R162, R169: the length that goes to the timer is that of the slot the cursor has come to. -/
theorem dur_cursor_of_emitAndAdvance {s u : State} {r : Int} (h : emitAndAdvance s = (u, .ok r)) :
    dur u u.tx.cursor = .ok r := by
  unfold emitAndAdvance at h
  rcases advance_cases (emitted s) with ⟨-, -, he⟩ | ⟨-, -, he⟩ | ⟨c, -, he⟩
  all_goals
    obtain ⟨rfl, hd⟩ := Prod.mk.inj (he.symm.trans h)
    exact hd

/-- R162: a step that is done makes the preload active. -/
theorem arrActive_of_txUpdate_done {s t : State} (ht : execTxUpdate s = .next t) (hk : t.out.kind = .done) :
    t.tx.arrActive = s.tx.arrPreload := by
  rcases execTxUpdate_next ht with
    ⟨-, rfl⟩ | ⟨-, rfl⟩ | ⟨-, rfl⟩ | ⟨-, u, r, he, ⟨-, rfl⟩ | ⟨-, rfl⟩⟩
  · cases hk
  · cases hk
  · rfl
  · unfold emitAndAdvance at he
    rcases advance_cases (emitted s) with ⟨-, -, he'⟩ | ⟨-, -, he'⟩ | ⟨c, -, he'⟩
    all_goals
      obtain ⟨rfl, -⟩ := Prod.mk.inj (he'.symm.trans he)
      exact emit_arrActive _ _
  · cases hk

end Sys2Proof.Machine
end

section
/-! SUPPORT. The statements about a Running engine's TX_UPDATE (41_tx_engine.md R154, R162-R164). -/

namespace Sys2Proof.Machine

/-! ### Inside a frame and at its end (R162) -/

/-- R154: only BiDiStart and BiDiEnd touch the return channel's counts and buffers. -/
theorem emitted_bidi_same_or (s : State) :
    s.tx.cursor.phase = .bidiStart ∨ s.tx.cursor.phase = .bidiEnd ∨
      ((emitted s).bidi = s.bidi ∧ (emitted s).mem = s.mem) := by
  rw [emit_bidi, emit_mem]
  cases s.tx.cursor.phase
  case bidiStart => exact .inl rfl
  case bidiEnd => exact .inr (.inl rfl)
  all_goals exact .inr (.inr ⟨rfl, rfl⟩)

/-- Settles O17: the engine moves on in the frame. -/
theorem txUpdateAdvances : Obligations.TxUpdateAdvances := by
  unfold Obligations.TxUpdateAdvances
  intro s c r hi hr hn hd hlo hhi
  have hrange : reloadOk s.params r = true := by simp [reloadOk, hlo, hhi]
  refine ⟨_, (Advances.move hn hd).execTxUpdate hi hr hrange, ?_, toNat_ofInt_of_reloadOk hi.params hrange, rfl,
    emit_params _ _, emit_ovr _ _, emit_rx _ _, emit_fault _ _, emit_ports _ _, emitted_sameOutside hi, ?_⟩
  · rw [setReload_tx, setCursor_tx, emitted_tx]
  · rcases emitted_bidi_same_or s with hph | hph | ⟨hb, hm⟩
    · exact .inl hph
    · exact .inr (.inl hph)
    · exact .inr (.inr ⟨hb, fun a => congrArg (·.read a) hm⟩)

/-- R152: a frame does not end at BiDiStart. -/
theorem nextSlot_of_bidiStart {cfg : TxCfg} {n : Byte} {c : Cursor} (h : c.phase = .bidiStart) :
    nextSlot cfg n c = some { phase := .bidiCh1, byteIdx := 0, bitIdx := 0, half := false } := by
  simp only [nextSlot, h]

/-- R154: after a slot other than BiDiStart, BRAW is as before. -/
theorem emitted_read_braw {s : State} (hi : Inv s) (hph : s.tx.cursor.phase ≠ .bidiStart) {a : Nat}
    (ha : InRegion brawBase bidiRegion a) : (emitted s).mem.read a = s.mem.read a := by
  rw [emit_mem]
  cases h : s.tx.cursor.phase
  case bidiStart => exact absurd h hph
  case bidiEnd =>
    refine Memory.read_fill_outside hi.mem _ (by decide) ?_
    simp only [InRegion, brawBase, bsnapBase, bidiRegion] at *
    omega
  all_goals rfl

/-- R157: what the engine latches at the end of a frame is what the mailbox held before the step. -/
theorem latchedFrom_wrap {s : State} (hi : Inv s) : LatchedFrom s (enterFrame (emitted s)) :=
  (latchedFrom_enterFrame (s := emitted s) (by simpa using hi.params) (emitted_wf hi)).congr (emit_mboxFull _ _)
    (emit_mboxLen _ _) (emit_params _ _) fun i hlt => emitted_read_of_lt hi <| by
      simp only [mboxBase, brawBase, packetRegion] at *
      omega

/-- Settles O18: the engine wraps, into Halting or into the next frame. -/
theorem txUpdateWraps : Obligations.TxUpdateWraps := by
  unfold Obligations.TxUpdateWraps
  intro s hi hr hn
  have hstart : s.tx.cursor.phase ≠ .bidiStart := fun h => by simp [nextSlot_of_bidiStart h] at hn
  have hpacket : ∀ {base i : Nat}, i < packetRegion → base ≤ actBase → base + i < brawBase := by
    simp only [packetRegion, actBase, brawBase]
    omega
  obtain ⟨u, ha⟩ : ∃ u, Advances s u s.tx.cfg.bit1Ticks.toNat := by
    cases hs : s.tx.stopReq
    · exact ⟨_, .latch hn hs⟩
    · exact ⟨_, .halt hn hs⟩
  obtain ⟨hp, hovr, hrx, hfault, hports⟩ := ha.frame
  obtain ⟨hcfg, hstop, hactive⟩ := ha.kept
  refine ⟨_, ha.execTxUpdate hi hr (reloadOk_bit1Ticks hi (by simp [hr])), ha.cursor_of_wrap hn, hactive, by simp, hcfg,
    hstop, by simp, hp, hovr, hrx, hfault, hports, ?_, fun hend => ?_, fun hs => ?_, fun hs => ?_⟩
  · rintro a (hrxa | ⟨hlo, hhi⟩)
    · have hrange : rxbBase ≤ a ∧ a < brawBase := by
        simp only [RxAddress, InRegion, rxbBase, rxrBase, brawBase, packetRegion] at *
        omega
      exact (ha.read_of_ge hi hrange.1).trans (emitted_read_of_lt hi hrange.2)
    · exact (ha.read_of_ge hi (le_trans (by decide) hlo)).trans (emitted_read_braw hi hstart ⟨hlo, hhi⟩)
  · obtain ⟨hbidi, hmem⟩ := ((emitted_bidi_same_or s).resolve_left hstart).resolve_left hend
    refine ⟨ha.bidi.trans hbidi, fun a ⟨hlo, _⟩ => ?_⟩
    exact (ha.read_of_ge hi (le_trans (by decide) hlo)).trans (congrArg (·.read a) hmem)
  · cases ha with
    | halt _ hs' => simp [hs] at hs'
    | move hn' => simp [hn] at hn'
    | latch =>
      exact ⟨(emit_run _ _).trans hr, latchedFrom_wrap hi, mailboxCleared_enterFrame (emitted_wf hi)⟩
  · cases ha with
    | latch _ hs' => simp [hs] at hs'
    | move hn' => simp [hn] at hn'
    | halt =>
      exact ⟨rfl, emit_actLen _ _, emit_mboxFull _ _, emit_mboxLen _ _,
        fun i hlt => emitted_read_of_lt hi (hpacket hlt le_rfl),
        fun i hlt => emitted_read_of_lt hi (hpacket hlt (by decide))⟩

/-- Settles O19: a Halting engine stops, a Stopped one takes no step. -/
theorem txUpdateHaltsAndStops : Obligations.TxUpdateHaltsAndStops := by
  unfold Obligations.TxUpdateHaltsAndStops
  intro s
  constructor
  · intro hr
    refine ⟨finish (stopEngine (loadActive s)), ?_, rfl, rfl, rfl, rfl, rfl, rfl, rfl, fun _ => rfl, rfl⟩
    simp only [exec, execTxUpdate, hr]
  · intro hr
    refine ⟨noStep s, ?_, ⟨rfl, rfl, rfl, rfl, rfl, rfl⟩, rfl, fun _ => rfl, rfl⟩
    simp only [exec, execTxUpdate, hr]

/-! ### The outputs of a slot (R154, R164, R167) -/

section
variable {s : State} (hi : Inv s) (hr : s.tx.run = .running)
include hi hr

/-- R24: the cursor of a Running engine names a slot of the frame. -/
theorem Inv.cursorOk : CursorOk s.tx.cfg s.tx.actLen s.tx.cursor := hi.tx.cursor (by simp [hr])

theorem Inv.pinsOk : PinsOk s.tx.cfg s.tx.cursor s.tx.pol s.tx.pins := hi.tx.pins (.inl hr)

end

/-- R167: the emitted slot sets the trigger in the first half of the first preamble bit only. -/
theorem emit_trigger {s : State} {c : Cursor} {n : Byte} (hc : CursorOk s.tx.cfg n c) :
    (emit c s).tx.pins.trigger = (s.tx.cfg.trig && decide (c = .first)) := by
  obtain ⟨ph, j, k, hf⟩ := c
  cases ph
  case preamble =>
    obtain ⟨rfl, -⟩ := hc
    simp [emit, emitTrack, Cursor.first]
  all_goals simp [emit, emitTrack, emitBidiStart, emitArm, emitBidiEnd, drive, Cursor.first]

/-- Settles O21: the polarity of the invariant is the half of the slot, and the track slot toggles it. -/
theorem polarityFollowsHalf : Obligations.PolarityFollowsHalf := by
  unfold Obligations.PolarityFollowsHalf
  intro s t hi hr hph ht hk
  obtain ⟨u, r, ha, -, rfl⟩ := txUpdate_done hi hr ht hk
  obtain ⟨hpol, hpins⟩ := ha.outputs
  obtain ⟨hdac, hbidi, hbrake⟩ := (hi.pinsOk hr).enables
  have harmed := (hi.pinsOk hr).armed
  obtain ⟨hcut, hnone⟩ := not_inCutout (.inl hph)
  rw [setReload_tx]
  simp only [hpol, hpins, emitted, emit_of_onTrack _ hph]
  simp [emitTrack, drive, hi.tx.pol, hdac, hbidi, hbrake, hcut, harmed, hnone]

/-! ### The cutout slots (R154, R251) -/

section
variable {s t : State} (hi : Inv s) (hr : s.tx.run = .running) (ht : execTxUpdate s = .next t)
  (hk : t.out.kind = .done)
include hi hr ht hk

/-- R154: a step inside the frame leaves the polarity, the pins, the return channel and the bytes as the emission of its
slot does. -/
theorem txUpdate_eq_emitted {c : Cursor} (hn : nextSlot s.tx.cfg s.tx.actLen s.tx.cursor = some c) :
    t.tx.pol = (emitted s).tx.pol ∧ t.tx.pins = (emitted s).tx.pins ∧ t.bidi = (emitted s).bidi ∧
      t.mem = (emitted s).mem := by
  obtain ⟨u, r, ha, -, rfl⟩ := txUpdate_done hi hr ht hk
  obtain ⟨hpol, hpins⟩ := ha.outputs
  exact ⟨hpol, hpins, ha.bidi, ha.mem_of_nextSlot hn⟩

theorem txUpdate_bidiStart (hph : s.tx.cursor.phase = .bidiStart) :
    t.tx.pins = { s.tx.pins with
      trackP := false, trackN := false, bidiEn := true, brakeEn := true, dacEn := true, trigger := false } ∧
    t.tx.pol = s.tx.pol ∧ t.bidi = { s.bidi with n1 := 0, n2 := 0 } ∧
    (∀ i < bidiRegion, t.mem.read (brawBase + i) = 0) ∧
    SameMemoryOutside (InRegion brawBase bidiRegion) s t ∧ dacOut t = s.bidi.threshold := by
  obtain ⟨hpol, hpins, hbidi, hmem⟩ := txUpdate_eq_emitted hi hr ht hk (nextSlot_of_bidiStart hph)
  have he : emitted s = emitBidiStart (loadActive s) := by simp only [emitted, emit, hph]
  rw [he] at hpol hpins hbidi hmem
  refine ⟨hpins, hpol, hbidi, fun i hlt => ?_, fun a hout => ?_, ?_⟩
  · rw [hmem]
    exact Memory.read_clear_eq_zero hi.mem (by decide) (.inl ⟨by omega, by omega⟩)
  · rw [hmem]
    exact Memory.read_fill_outside hi.mem _ (by decide) hout
  · rw [dacOut, hpins, hbidi]
    rfl

/-- R154: a slot that arms the receiver for a channel; the DAC stays enabled. -/
theorem txUpdate_arm {c : Cursor} (ch : Channel) (hn : nextSlot s.tx.cfg s.tx.actLen s.tx.cursor = some c)
    (he : emitted s = emitArm ch (loadActive s)) (hcut : s.tx.cursor.phase.inCutout = true) :
    t.tx.pins = { s.tx.pins with rcCh := ch, trigger := false } ∧ t.tx.pol = s.tx.pol ∧
    t.bidi = s.bidi ∧ SameMemory s t ∧ dacOut t = s.bidi.threshold := by
  obtain ⟨hpol, hpins, hbidi, hmem⟩ := txUpdate_eq_emitted hi hr ht hk hn
  rw [he] at hpol hpins hbidi hmem
  obtain ⟨hdac, -, -⟩ := (hi.pinsOk hr).enables
  refine ⟨hpins, hpol, hbidi, fun a => congrArg (·.read a) hmem, ?_⟩
  rw [dacOut, hpins, hbidi]
  exact if_pos (hdac.trans hcut)

theorem txUpdate_bidiEnd (hph : s.tx.cursor.phase = .bidiEnd) :
    t.tx.pins = { Pins.off with
      trackP := Bool.xor s.tx.pol s.tx.cfg.invert, trackN := Bool.xor (!s.tx.pol) s.tx.cfg.invert } ∧
    t.tx.pol = s.tx.pol ∧
    t.bidi = { s.bidi with sn1 := s.bidi.n1, sn2 := s.bidi.n2, ready := true } ∧
    (∀ i < bidiRegion, t.mem.read (bsnapBase + i) = s.mem.read (brawBase + i)) ∧
    (∀ i < bidiRegion, t.mem.read (brawBase + i) = s.mem.read (brawBase + i)) ∧ dacOut t = 0 := by
  obtain ⟨u, r, ha, -, rfl⟩ := txUpdate_done hi hr ht hk
  obtain ⟨hpol, hpins⟩ := ha.outputs
  have hbidi := ha.bidi
  have hstart : s.tx.cursor.phase ≠ .bidiStart := by simp [hph]
  have he : emitted s = emitBidiEnd (loadActive s) := by simp only [emitted, emit, hph]
  have hread := fun a hge => ha.read_of_ge hi (a := a) hge
  refine ⟨hpins.trans (by rw [he]; rfl), hpol.trans (by rw [he]; rfl), hbidi.trans (by rw [he]; rfl), fun i hlt => ?_,
    fun i hlt => ?_, ?_⟩
  · rw [setReload_mem, hread _ (Nat.le_add_right_of_le (by decide)), he]
    refine (Memory.read_copy hi.mem _ _ _ _ (by decide)).trans ?_
    rw [if_pos (by omega), Nat.add_sub_cancel_left]
  · rw [setReload_mem, hread _ (Nat.le_add_right_of_le (by decide))]
    exact emitted_read_braw hi hstart ⟨by omega, by omega⟩
  · rw [dacOut, setReload_tx, hpins, he]
    rfl

end

/-- Settles O22: one lemma per cutout slot. -/
theorem cutoutSlots : Obligations.CutoutSlots := by
  unfold Obligations.CutoutSlots
  intro s t hi hr ht hk
  refine ⟨txUpdate_bidiStart hi hr ht hk, fun hph => ?_, fun hph => ?_, txUpdate_bidiEnd hi hr ht hk⟩
  · refine txUpdate_arm hi hr ht hk (c := ⟨.bidiCh2, 0, 0, false⟩) .ch1 ?_ ?_ ?_
    · simp only [nextSlot, hph]
    · simp only [emitted, emit, hph]
    · rw [hph]; rfl
  · refine txUpdate_arm hi hr ht hk (c := ⟨.bidiEnd, 0, 0, false⟩) .ch2 ?_ ?_ ?_
    · simp only [nextSlot, hph]
    · simp only [emitted, emit, hph]
    · rw [hph]; rfl

/-! ### The reload of the next slot (R153, R169) -/

/-- R153: the length of a preamble slot. -/
theorem dur_of_preamble {s : State} {c : Cursor} (h : c.phase = .preamble) :
    dur s c = .ok s.tx.cfg.bit1Ticks.toNat := by
  simp only [dur, h]

/-- R153, R134: the length of a cutout slot. -/
theorem dur_of_cutout {s : State} {c : Cursor} (h : c.phase ∈ cutoutPhases) :
    dur s c = .ok (bidiTicks s.params c.phase) := by
  obtain ⟨ph, j, k, hf⟩ := c
  cases ph
  case preamble | data => simp [cutoutPhases] at h
  all_goals rfl

/-- R162, R169: a step that gives a reload is the step of a Running engine; the reload is the preload and the length of
the slot the cursor has come to. -/
theorem txUpdate_reload {s t : State} {r : Word} (hi : Inv s) (ht : execTxUpdate s = .next t)
    (hrel : t.out.reload = some r) :
    t.out.kind = .done ∧ t.tx.arrPreload = r ∧ t.params = s.params ∧ t.tx.cfg = s.tx.cfg ∧
      dur t t.tx.cursor = .ok r.toNat := by
  rcases execTxUpdate_next ht with
    ⟨-, rfl⟩ | ⟨-, rfl⟩ | ⟨-, rfl⟩ | ⟨hr, u, q, he, ⟨hrange, rfl⟩ | ⟨-, rfl⟩⟩
  case inr.inr.inr.inl =>
    obtain ⟨u', q', he', ha⟩ := emitAndAdvance_advances hi hr
    obtain ⟨rfl, -⟩ := Prod.mk.inj (he.symm.trans he')
    obtain rfl := Option.some.inj hrel
    have hd : dur (setReload q u) u.tx.cursor = dur u u.tx.cursor := rfl
    obtain ⟨hp, -⟩ := ha.frame
    obtain ⟨hcfg, -⟩ := ha.kept
    refine ⟨rfl, rfl, hp, hcfg, ?_⟩
    rw [toNat_ofInt_of_reloadOk hi.params hrange]
    exact hd.trans (dur_cursor_of_emitAndAdvance he)
  all_goals cases hrel

/-- Settles O24: the reload is the length of the slot the cursor names, which R153 and R134 fix by its phase. -/
theorem reloadIsNextSlotLength : Obligations.ReloadIsNextSlotLength := by
  unfold Obligations.ReloadIsNextSlotLength
  intro s t r hi ht hrel
  obtain ⟨hk, hpre, hp, hcfg, hd⟩ := txUpdate_reload hi ht hrel
  have hcut : ∀ ph ∈ cutoutPhases, t.tx.cursor.phase = ph → r.toNat = bidiTicks s.params ph := by
    rintro ph hmem rfl
    have := hd.symm.trans (dur_of_cutout hmem)
    rw [hp] at this
    exact Int.ofNat_inj.mp (Except.ok.inj this)
  refine ⟨hpre, arrActive_of_txUpdate_done ht hk, hd, fun hph => ?_, hcut .bidiStart (by decide),
    hcut .bidiCh1 (by decide), hcut .bidiCh2 (by decide), hcut .bidiEnd (by decide), fun u hu hku => ?_⟩
  · rw [dur_of_preamble hph, hcfg] at hd
    exact BitVec.eq_of_toNat_eq (Int.ofNat_inj.mp (Except.ok.inj hd)).symm
  · exact (arrActive_of_txUpdate_done hu hku).trans hpre

end Sys2Proof.Machine
end

section
/-! SUPPORT. Which operations change the transmit engine and the packet regions (41_tx_engine.md R157, R167, R170), and
INIT_TX given twice (R168). -/

namespace Sys2Proof.Machine

/-! ### The operations that leave the transmit engine alone -/

/-- The operations of the override, the threshold, the return channel's and the receiver's outputs and the status reads
change neither the transmit engine nor the buffer space. -/
theorem exec_keeps_tx_mem {i : Instr} {s t : State} (ht : exec i s = .next t)
    (hop : i.op ∉ [.initTx, .packet, .start, .stop, .txUpdate, .rxInit, .rxCapture, .bidiByte]) :
    t.tx = s.tx ∧ t.mem = s.mem := by
  cases i
  case initTx | packet | start | stop | txUpdate | rxInit | rxCapture | bidiByte => simp [Instr.op] at hop
  case setOvrMask => cases ht; exact ⟨rfl, rfl⟩
  case setOvrDelta sel delta => cases sel <;> cases ht <;> exact ⟨rfl, rfl⟩
  case setBidiThreshold => rcases execSetBidiThreshold_next ht with ⟨-, rfl⟩ | ⟨-, rfl⟩ <;> exact ⟨rfl, rfl⟩
  case rxTake => rcases execRxTake_next ht with ⟨-, rfl⟩ | ⟨-, rfl⟩ <;> exact ⟨rfl, rfl⟩
  case bidiTake => rcases execBidiTake_next ht with ⟨-, rfl⟩ | ⟨-, rfl⟩ <;> exact ⟨rfl, rfl⟩
  case readReg => rcases execReadReg_next ht with ⟨-, rfl⟩ | ⟨w, -, rfl⟩ <;> exact ⟨rfl, rfl⟩
  case readBuf => rcases execReadBuf_next ht with ⟨-, rfl⟩ | ⟨w, -, rfl⟩ <;> exact ⟨rfl, rfl⟩
  case rxBidiFire => rcases execRxBidiFire_next ht with ⟨-, rfl⟩ | ⟨-, rfl⟩ | ⟨-, rfl⟩ <;> exact ⟨rfl, rfl⟩

/-- Only the five operations of 41_tx_engine.md change the transmit engine. -/
theorem exec_keeps_tx {i : Instr} {s t : State} (ht : exec i s = .next t)
    (hop : i.op ∉ [.initTx, .packet, .start, .stop, .txUpdate]) : t.tx = s.tx := by
  cases i with
  | initTx | packet | start | stop | txUpdate => simp [Instr.op] at hop
  | rxInit => cases ht; rfl
  | rxCapture =>
    rcases execRxCapture_next ht with ⟨-, rfl⟩ | ⟨-, u, hu, rfl⟩
    · rfl
    · exact (captureStep_frame hu).tx
  | bidiByte => rcases execBidiByte_next ht with ⟨-, rfl⟩ | ⟨a, -, rfl⟩ <;> rfl
  | _ => exact (exec_keeps_tx_mem ht (by simp [Instr.op])).1

/-! ### The trigger (R167) -/

/-- R29: the pins of an engine that is off. -/
theorem Inv.trigger_of_off {s : State} (hi : Inv s) (hoff : ¬ s.tx.run.on) : s.tx.pins.trigger = false := by
  rw [hi.tx.off hoff]
  rfl

/-- R167: a TX_UPDATE that emits no slot leaves every pin 0. -/
theorem txUpdate_trigger_of_no_slot {s t : State} (hi : Inv s) (ht : execTxUpdate s = .next t)
    (hno : s.tx.run ≠ .running ∨ t.out.kind ≠ .done) : t.tx.pins.trigger = false := by
  rcases execTxUpdate_next ht with
    ⟨hr, rfl⟩ | ⟨hr, rfl⟩ | ⟨-, rfl⟩ | ⟨hr, u, r, -, ⟨-, rfl⟩ | ⟨-, rfl⟩⟩
  · exact hi.trigger_of_off (by simp [RunState.on, hr])
  · exact hi.trigger_of_off (by simp [RunState.on, hr])
  · rfl
  · exact absurd rfl (hno.resolve_left (by simp [hr]))
  · rfl

/-- R167: no operation but TX_UPDATE changes the trigger. -/
theorem exec_keeps_trigger {i : Instr} {s t : State} (hi : Inv s) (hne : i ≠ .txUpdate) (ht : exec i s = .next t) :
    t.tx.pins.trigger = s.tx.pins.trigger := by
  cases i with
  | txUpdate => exact absurd rfl hne
  | initTx =>
    rcases execInitTx_next ht with ⟨-, rfl⟩ | ⟨hr, ⟨-, rfl⟩ | ⟨-, rfl⟩⟩
    · rfl
    · refine (hi.trigger_of_off ?_).symm
      rcases hr with hr | hr <;> simp [RunState.on, hr]
    · rfl
  | packet => rcases execPacket_next ht with ⟨-, rfl⟩ | ⟨-, rfl⟩ <;> rfl
  | start => rcases execStart_next ht with ⟨-, rfl⟩ | ⟨-, rfl⟩ | ⟨-, rfl⟩ <;> rfl
  | stop => rcases execStop_next ht with ⟨-, rfl⟩ | ⟨-, rfl⟩ <;> rfl
  | _ => exact congrArg (·.pins.trigger) (exec_keeps_tx ht (by simp [Instr.op]))

/-- Settles O23: the emitted slot decides the trigger, and the pins of the invariant give the rest. -/
theorem triggerMarksFirstSlot : Obligations.TriggerMarksFirstSlot := by
  unfold Obligations.TriggerMarksFirstSlot
  refine ⟨fun s t hi ht => ⟨fun hr hk => ?_, txUpdate_trigger_of_no_slot hi ht⟩,
    fun i s t hi hne ht => exec_keeps_trigger hi hne ht, fun s hi htrig => ?_⟩
  · obtain ⟨u, r, ha, -, rfl⟩ := txUpdate_done hi hr ht hk
    rw [setReload_tx, ha.outputs.2]
    exact emit_trigger (s := loadActive s) (hi.cursorOk hr)
  · by_cases hon : s.tx.run.on
    · rw [(hi.tx.pins hon).trigger, htrig, Bool.false_and]
    · exact hi.trigger_of_off hon

/-! ### Which bytes a capture changes (R202-R207) -/

theorem huntReset_sameOutside {s : State} (hw : s.mem.wf = true) : SameMemoryOutside RxAddress s (huntReset s) :=
  fun _ ha => Memory.read_fill_outside hw _ (by decide) fun hin => ha (.inl hin)

theorem armOneShot_mem (ts : Word) (d : Nat) (s : State) : (armOneShot ts d s).mem = s.mem := by
  unfold armOneShot
  split <;> rfl

theorem huntStep_mem (one : Bool) (s : State) : (huntStep one s).mem = s.mem := by
  unfold huntStep
  split
  · rfl
  · split <;> rfl

theorem start2Step_sameOutside {s : State} (hw : s.mem.wf = true) (one : Bool) :
    SameMemoryOutside RxAddress s (start2Step one s) := by
  unfold start2Step
  split <;> exact huntReset_sameOutside hw

/-- R206: the end of a packet writes RXB and RXR only. -/
theorem packetEnd_sameOutside {s : State} (hw : s.mem.wf = true) (ts : Word) (d : Nat) :
    SameMemoryOutside RxAddress s (packetEnd ts d s) := by
  unfold packetEnd
  split
  · intro a ha
    have hw' : (armOneShot ts d (fillReady s)).mem.wf = true := by
      rw [armOneShot_mem]
      exact Memory.copy_wf hw _ _ _
    rw [huntReset_sameOutside hw' a ha, armOneShot_mem]
    exact Memory.read_fill_outside hw _ (by decide) fun hin => ha (.inr hin)
  · exact huntReset_sameOutside hw

section
variable {s t : State} (hi : Inv s)
include hi

/-- R205: a complete byte goes to the end of RXB. -/
theorem takeBit_sameOutside {one : Bool} (ht : takeBit one s = .ok t) : SameMemoryOutside RxAddress s t := by
  have hcap : s.params.rxCapacity ≤ packetRegion := rxCapacity_le_packetRegion hi.params
  have hn := hi.rx.n
  simp only [takeBit, storeByte] at ht
  split at ht
  · split at ht
    · cases ht
      exact huntReset_sameOutside (s := s) hi.mem
    · rename_i hfull
      split at ht
      · cases ht
        refine fun a ha => Memory.read_write_of_ne hi.mem _ fun e => ha (.inl ?_)
        simp only [rxStoreAddr] at e
        exact ⟨by omega, by omega⟩
      · cases ht
  · cases ht
    exact fun _ _ => rfl

theorem dataStep_sameOutside {one : Bool} {ts : Word} {d : Nat} (ht : dataStep one ts d s = .ok t) :
    SameMemoryOutside RxAddress s t := by
  unfold dataStep at ht
  repeat' split at ht
  · cases ht
    exact packetEnd_sameOutside hi.mem ts d
  · cases ht
  · cases ht
    exact fun _ _ => rfl
  · cases ht
    exact huntReset_sameOutside hi.mem
  · cases ht
    exact fun _ _ => rfl
  · exact takeBit_sameOutside hi ht

theorem frameStep_sameOutside {one : Bool} {ts : Word} {d : Nat} (ht : frameStep one ts d s = .ok t) :
    SameMemoryOutside RxAddress s t := by
  unfold frameStep at ht
  split at ht
  · cases ht
    exact fun a _ => congrArg (·.read a) (huntStep_mem one s)
  · cases ht
    exact start2Step_sameOutside hi.mem one
  · exact dataStep_sameOutside hi ht

/-- R202: a capture changes bytes of the receive side only. -/
theorem captureStep_sameOutside {ts : Word} (hts : ts.toNat < 2 ^ s.params.capBits) (ht : captureStep ts s = .ok t) :
    SameMemoryOutside RxAddress s t := by
  have he := inv_recordEdge hi hts
  rcases captureStep_cases ht with ⟨-, rfl⟩ | ⟨-, -, rfl⟩ | ⟨one, -, -, hf⟩
  · exact fun _ _ => rfl
  · exact huntReset_sameOutside (s := recordEdge ts s) hi.mem
  · exact frameStep_sameOutside (s := recordEdge ts s) he hf

end

/-! ### The active packet (R157, R170) -/

/-- R27: the active packet, its length and its bytes in ACT, is as before. -/
def SameActive (s t : State) : Prop :=
  t.tx.actLen = s.tx.actLen ∧ ∀ k < packetRegion, t.mem.read (actBase + k) = s.mem.read (actBase + k)

section
variable {s t : State}

/-- Bytes outside ACT may change. -/
theorem sameActive_of_outside {P : Nat → Prop} (hl : t.tx.actLen = s.tx.actLen) (hm : SameMemoryOutside P s t)
    (hP : ∀ a, P a → ¬ InRegion actBase packetRegion a) : SameActive s t :=
  ⟨hl, fun _ hk => hm _ fun h => hP _ h ⟨by omega, by omega⟩⟩

/-- R60: ACT does not overlap the receive side's regions. -/
theorem not_act_of_rxAddress (a : Nat) (h : RxAddress a) : ¬ InRegion actBase packetRegion a :=
  fun hact => not_rxAddress_of_txAddress (.inr (.inl hact)) h

/-- R170: the operations that neither start a frame nor reset the engine keep the active packet. -/
theorem exec_keeps_active {i : Instr} (hi : Inv s) (ht : exec i s = .next t)
    (hop : i.op ∉ [.initTx, .start, .txUpdate]) : SameActive s t := by
  cases i with
  | initTx | start | txUpdate => simp [Instr.op] at hop
  | packet =>
    rcases execPacket_next ht with ⟨-, rfl⟩ | ⟨-, rfl⟩
    · exact ⟨rfl, fun _ _ => rfl⟩
    · refine sameActive_of_outside (P := InRegion mboxBase packetRegion) rfl
        (fun a ha => Memory.read_fill_outside hi.mem _ (by decide) ha) fun a ha => ?_
      simp only [InRegion, mboxBase, actBase, packetRegion] at *
      omega
  | stop => rcases execStop_next ht with ⟨-, rfl⟩ | ⟨-, rfl⟩ <;> exact ⟨rfl, fun _ _ => rfl⟩
  | rxInit =>
    cases ht
    have hw := Memory.clear_wf hi.mem rxbBase packetRegion
    exact sameActive_of_outside rfl (fun a ha => (Memory.read_fill_outside hw _ (by decide) fun h => ha (.inr h)).trans
      (huntReset_sameOutside hi.mem a ha)) not_act_of_rxAddress
  | rxCapture =>
    rcases execRxCapture_next ht with ⟨-, rfl⟩ | ⟨hts, u, hu, rfl⟩
    · exact ⟨rfl, fun _ _ => rfl⟩
    · have hm := captureStep_sameOutside hi hts hu
      exact sameActive_of_outside (congrArg (·.actLen) (captureStep_frame hu).tx) hm not_act_of_rxAddress
  | bidiByte =>
    rcases execBidiByte_next ht with ⟨-, rfl⟩ | ⟨a, ha, rfl⟩
    · exact ⟨rfl, fun _ _ => rfl⟩
    · have hrange := bidiStoreAddr_range ha
      refine ⟨rfl, fun k hk => Memory.read_write_of_ne hi.mem _ fun e => ?_⟩
      simp only [actBase, brawBase, packetRegion] at *
      omega
  | _ =>
    obtain ⟨htx, hmem⟩ := exec_keeps_tx_mem ht (by simp [Instr.op])
    exact ⟨congrArg (·.actLen) htx, fun _ _ => by rw [hmem]⟩

end

/-- R157: a Running engine keeps the active packet, or wraps with no STOP pending and latches the next one. -/
theorem Advances.active {s u : State} {r : Int} (ha : Advances s u r) (hi : Inv s) :
    SameActive s u ∨
      (s.tx.stopReq = false ∧ nextSlot s.tx.cfg s.tx.actLen s.tx.cursor = none ∧ LatchedFrom s u ∧
        MailboxCleared u) := by
  have hsame : SameActive s (emitted s) :=
    ⟨emit_actLen _ _, fun k hk => emitted_read_of_lt hi (by simp only [actBase, brawBase, packetRegion] at *; omega)⟩
  cases ha with
  | halt | move => exact .inl hsame
  | latch hn hs => exact .inr ⟨hs, hn, latchedFrom_wrap hi, mailboxCleared_enterFrame (emitted_wf hi)⟩

/-- Settles O25: INIT_TX, START and TX_UPDATE in their cases, and the operations that leave the active packet alone. -/
theorem activePacketChangesOnlyAtLatch : Obligations.ActivePacketChangesOnlyAtLatch := by
  unfold Obligations.ActivePacketChangesOnlyAtLatch
  intro i s t hi ht
  cases i with
  | initTx np bidi invert trig b1 b0 =>
    rcases execInitTx_next ht with ⟨-, rfl⟩ | ⟨-, ⟨-, rfl⟩ | ⟨-, rfl⟩⟩
    · exact .inl ⟨rfl, fun _ _ => rfl⟩
    · exact .inr (.inr ⟨rfl, rfl, rfl, fun k hk =>
        configure_read_of_txAddress hi.mem np bidi invert trig b1 b0 (.inr (.inl ⟨by omega, by omega⟩))⟩)
    · exact .inl ⟨rfl, fun _ _ => rfl⟩
  | start =>
    rcases execStart_next ht with ⟨-, rfl⟩ | ⟨-, rfl⟩ | ⟨hr, rfl⟩
    · exact .inl ⟨rfl, fun _ _ => rfl⟩
    · exact .inl ⟨rfl, fun _ _ => rfl⟩
    · exact .inr (.inl ⟨latchedFrom_enterFrame hi.params hi.mem, mailboxCleared_enterFrame hi.mem, .inl ⟨rfl, hr⟩⟩)
  | txUpdate =>
    by_cases hd : s.tx.run = .running ∧ t.out.kind = .done
    · obtain ⟨hr, hk⟩ := hd
      obtain ⟨u, r, ha, -, rfl⟩ := txUpdate_done hi hr ht hk
      rcases ha.active hi with hsame | ⟨hs, hn, hlatch, hclear⟩
      · exact .inl hsame
      · exact .inr (.inl ⟨hlatch, hclear, .inr ⟨rfl, hr, hs, hn⟩⟩)
    · rcases execTxUpdate_next ht with ⟨-, rfl⟩ | ⟨-, rfl⟩ | ⟨-, rfl⟩ | ⟨hr, u, r, -, ⟨-, rfl⟩ | ⟨-, rfl⟩⟩
      case inr.inr.inr.inl => exact absurd ⟨hr, rfl⟩ hd
      all_goals exact .inl ⟨rfl, fun _ _ => rfl⟩
  | _ => exact .inl (exec_keeps_active hi ht (by simp [Instr.op]))

/-! ### INIT_TX given twice (R168) -/

/-- R158: an accepted INIT_TX leaves nothing that a second one of the same configuration changes. -/
theorem configure_configure {s : State} (hw : s.mem.wf = true) (np : Byte) (bidi invert trig : Bool)
    (b1 b0 : BitVec 16) :
    finish (configure np bidi invert trig b1 b0 (finish (configure np bidi invert trig b1 b0 s))) =
      finish (configure np bidi invert trig b1 b0 s) := by
  set u := finish (configure np bidi invert trig b1 b0 s)
  have hwu : u.mem.wf = true := configure_wf hw np bidi invert trig b1 b0
  have hmem : (configure np bidi invert trig b1 b0 u).mem = u.mem := by
    refine Memory.ext_read (configure_wf hwu ..) hwu fun a => ?_
    by_cases ha : TxAddress a
    · exact (configure_read_of_txAddress hwu _ _ _ _ _ _ ha).trans
        (configure_read_of_txAddress hw np bidi invert trig b1 b0 ha).symm
    · exact configure_sameOutside hwu _ _ _ _ _ _ a ha
  calc finish (configure np bidi invert trig b1 b0 u)
    _ = { u with mem := (configure np bidi invert trig b1 b0 u).mem } := rfl
    _ = u := by rw [hmem]

theorem execInitTx_of_configured {s : State} (hw : s.mem.wf = true) {np : Byte} {bidi : Bool} (invert trig : Bool)
    {b1 b0 : BitVec 16} (hc : AcceptedConfig s.params np bidi b1 b0) :
    execInitTx np bidi invert trig b1 b0 (finish (configure np bidi invert trig b1 b0 s)) =
      .next (finish (configure np bidi invert trig b1 b0 s)) := by
  rw [execInitTx_of_accepted (s := finish (configure np bidi invert trig b1 b0 s)) invert trig (.inr rfl) hc,
    configure_configure hw]

/-- R162: the first TX_UPDATE of a frame goes on to the second half of the first preamble bit. -/
theorem execTxUpdate_of_first {s : State} (hr : s.tx.run = .running) (hc : s.tx.cursor = .first)
    (hrange : reloadOk s.params s.tx.cfg.bit1Ticks.toNat = true) :
    execTxUpdate s =
      .next (setReload s.tx.cfg.bit1Ticks.toNat (setCursor ⟨.preamble, 0, 0, true⟩ (emitted s))) := by
  have hn : nextSlot (emitted s).tx.cfg (emitted s).tx.actLen (emitted s).tx.cursor = some ⟨.preamble, 0, 0, true⟩ := by
    rw [emit_cursor, loadActive_tx, hc]
    rfl
  have hd : dur (setCursor ⟨.preamble, 0, 0, true⟩ (emitted s)) ⟨.preamble, 0, 0, true⟩ =
      .ok s.tx.cfg.bit1Ticks.toNat := by
    rw [dur_of_preamble rfl, setCursor_tx, emit_cfg, loadActive_tx]
  simp only [execTxUpdate, hr, emitAndAdvance, advance, hn, hd, hrange, if_true]

theorem execAll_cons_of_next {i : Instr} {rest : List Instr} {s t : State} (h : exec i s = .next t) :
    execAll (i :: rest) s = execAll rest t := by
  simp only [execAll, h]

/-- Settles O26: the second INIT_TX changes nothing, and the first slot's length is that of a preamble slot. -/
theorem initTwiceIsInitOnce : Obligations.InitTwiceIsInitOnce := by
  unfold Obligations.InitTwiceIsInitOnce
  intro s np bidi invert trig bit1Us bit0Us hp hw hr hc
  let u := finish (configure np bidi invert trig bit1Us bit0Us s)
  let v := setReload u.tx.cfg.bit1Ticks.toNat (setCursor ⟨.preamble, 0, 0, true⟩ (emitted (finish (startFrame u))))
  have hticks : u.tx.cfg.bit1Ticks.toNat = bit1Us.toNat * s.params.ticksPerUs := toNat_ofNat_usToTicks hp hc.ticks1.2
  have hrange : reloadOk s.params u.tx.cfg.bit1Ticks.toNat = true := by
    have := hc.ticks1
    simp only [reloadOk, Bool.and_eq_true, decide_eq_true_eq, hticks]
    omega
  have hinit : exec (.initTx np bidi invert trig bit1Us bit0Us) s = .next u := execInitTx_of_accepted invert trig hr hc
  have hagain : exec (.initTx np bidi invert trig bit1Us bit0Us) u = .next u :=
    execInitTx_of_configured hw invert trig hc
  have hstart : exec .start u = .next (finish (startFrame u)) :=
    execStart_of_stopped (s := u) rfl
  have hupdate : exec .txUpdate (finish (startFrame u)) = .next v :=
    execTxUpdate_of_first (s := finish (startFrame u)) rfl rfl hrange
  refine ⟨v, u.tx.cfg.bit1Ticks, ?_, ?_, by simp [v], emit_arrActive _ _, hticks⟩
  · rw [execAll_cons_of_next hinit, execAll_cons_of_next hstart, execAll_cons_of_next hupdate, execAll]
  · rw [execAll_cons_of_next hinit, execAll_cons_of_next hagain, execAll_cons_of_next hstart,
      execAll_cons_of_next hupdate, execAll]

end Sys2Proof.Machine
end

section
/-! SUPPORT. The frame as a list of slots that `next_slot` walks through (41_tx_engine.md R150, R152, R165). -/

namespace Sys2Proof.Machine

/-! ### Lists that a successor function walks through -/

/-- `next` takes each slot of the list to the one after it, and the last one to `e`. -/
def WalksTo (next : Cursor → Option Cursor) : List Cursor → Option Cursor → Prop
  | [], _ => True
  | c :: rest, e => next c = rest.head?.or e ∧ WalksTo next rest e

section
variable {next : Cursor → Option Cursor}

theorem WalksTo.append {l l' : List Cursor} {e : Option Cursor} (h : WalksTo next l (l'.head?.or e))
    (h' : WalksTo next l' e) : WalksTo next (l ++ l') e := by
  induction l with
  | nil => exact h'
  | cons c rest ih =>
    obtain ⟨hc, hrest⟩ := h
    refine ⟨?_, ih hrest⟩
    rw [hc, ← Option.or_assoc, ← List.head?_append]
    rfl

/-- A list walked to its end gives each slot's successor by its place. -/
theorem WalksTo.next_eq_getElem? {l : List Cursor} (h : WalksTo next l none) {k : Nat} {c : Cursor}
    (hk : l[k]? = some c) : next c = l[k + 1]? := by
  induction l generalizing k with
  | nil => simp at hk
  | cons d rest ih =>
    obtain ⟨hd, hrest⟩ := h
    cases k with
    | zero =>
      obtain rfl : d = c := by simpa using hk
      simpa [List.head?_eq_getElem?] using hd
    | succ k => simpa using ih hrest (by simpa using hk)

/-- Blocks of slots, each of which leads to the start of the next. -/
theorem walksTo_flatMap_range {f : Nat → List Cursor} {start : Nat → Cursor}
    (hhead : ∀ i, (f i).head? = some (start i)) {m : Nat} (h : ∀ i < m, WalksTo next (f i) (some (start (i + 1)))) :
    WalksTo next ((List.range m).flatMap f) (some (start m)) := by
  induction m with
  | zero => trivial
  | succ m ih =>
    rw [List.range_succ, List.flatMap_append, List.flatMap_singleton]
    refine .append ?_ (h m (by omega))
    rw [hhead]
    exact ih fun i hi => h i (by omega)

/-- The same, when the last block leads elsewhere. -/
theorem walksTo_flatMap_range_succ {f : Nat → List Cursor} {start : Nat → Cursor} {e : Option Cursor}
    (hhead : ∀ i, (f i).head? = some (start i)) {m : Nat} (h : ∀ i < m, WalksTo next (f i) (some (start (i + 1))))
    (hlast : WalksTo next (f m) e) : WalksTo next ((List.range (m + 1)).flatMap f) e := by
  rw [List.range_succ, List.flatMap_append, List.flatMap_singleton]
  refine .append ?_ hlast
  rw [hhead]
  exact walksTo_flatMap_range hhead h

end

/-! ### The parts of a frame -/

/-- R150: a half of bit `k` of byte `j`. -/
def slotAt (ph : Phase) (j k : Nat) (half : Bool) : Cursor :=
  { phase := ph, byteIdx := BitVec.ofNat 8 j, bitIdx := BitVec.ofNat 8 k, half := half }

/-- R150: the slots of byte `j` with its start or separator bit. -/
def byteSlots (j : Nat) : List Cursor := (List.range 9).flatMap fun k => bothHalves .data j k

/-- R150: the cutout slots of a frame. -/
def cutoutSlotsOf (bidi : Bool) : List Cursor :=
  if bidi then cutoutPhases.map fun ph => { phase := ph, byteIdx := 0, bitIdx := 0, half := false } else []

theorem frameSlots_eq (np n : Nat) (bidi : Bool) :
    frameSlots np n bidi = ((List.range np).flatMap fun i => bothHalves .preamble 0 i) ++
      (List.range n).flatMap byteSlots ++ bothHalves .data n 0 ++ cutoutSlotsOf bidi := rfl

section
variable {cfg : TxCfg} {n : Byte}

/-- R152: the first half of a bit is followed by its second, so a bit walks to what follows that. -/
theorem walksTo_bothHalves {ph : Phase} (hph : ph = .preamble ∨ ph = .data) {j k : Nat} {e : Option Cursor}
    (h : nextSlot cfg n (slotAt ph j k true) = e) : WalksTo (nextSlot cfg n) (bothHalves ph j k) e := by
  refine ⟨?_, h, trivial⟩
  rcases hph with rfl | rfl <;> rfl

/-- R152: a byte counter one up. -/
theorem ofNat_succ (i : Nat) : BitVec.ofNat 8 i + 1 = BitVec.ofNat 8 (i + 1) := (BitVec.ofNat_add i 1).symm

theorem nextSlot_preamble {i : Nat} (hi : i + 1 < cfg.np.toNat) :
    nextSlot cfg n (slotAt .preamble 0 i true) = some (slotAt .preamble 0 (i + 1) false) := by
  have hnp := cfg.np.isLt
  have hlt : (BitVec.ofNat 8 i).toNat + 1 < cfg.np.toNat := by
    rw [BitVec.toNat_ofNat, Nat.mod_eq_of_lt (by omega)]
    exact hi
  simp only [nextSlot, slotAt, Bool.true_eq_false, if_false, hlt, if_true, ofNat_succ]
  rfl

theorem nextSlot_preamble_last {i : Nat} (hi : i + 1 = cfg.np.toNat) :
    nextSlot cfg n (slotAt .preamble 0 i true) = some (slotAt .data 0 0 false) := by
  have hnp := cfg.np.isLt
  have hnlt : ¬ (BitVec.ofNat 8 i).toNat + 1 < cfg.np.toNat := by
    rw [BitVec.toNat_ofNat, Nat.mod_eq_of_lt (by omega)]
    omega
  simp only [nextSlot, slotAt, Bool.true_eq_false, if_false, hnlt]
  rfl

section
variable {j : Nat} (hj : j < n.toNat)
include hj

/-- R150: a byte of the packet is not the end bit. -/
theorem ofNat_ne_of_lt : BitVec.ofNat 8 j ≠ n := by
  have hn := n.isLt
  rintro rfl
  rw [BitVec.toNat_ofNat] at hj hn
  omega

theorem nextSlot_data {k : Nat} (hk : k < 8) :
    nextSlot cfg n (slotAt .data j k true) = some (slotAt .data j (k + 1) false) := by
  have hlt : (BitVec.ofNat 8 k).toNat < 8 := by
    rw [BitVec.toNat_ofNat]
    omega
  simp only [nextSlot, slotAt, Bool.true_eq_false, if_false, ofNat_ne_of_lt hj, hlt, if_true, ofNat_succ]

theorem nextSlot_data_last :
    nextSlot cfg n (slotAt .data j 8 true) = some (slotAt .data (j + 1) 0 false) := by
  have hnlt : ¬ (BitVec.ofNat 8 8).toNat < 8 := by decide
  simp only [nextSlot, slotAt, Bool.true_eq_false, if_false, ofNat_ne_of_lt hj, hnlt, ofNat_succ]
  rfl

theorem walksTo_byteSlots :
    WalksTo (nextSlot cfg n) (byteSlots j) (some (slotAt .data (j + 1) 0 false)) :=
  walksTo_flatMap_range_succ (start := fun k => slotAt .data j k false) (fun _ => rfl)
    (fun _ hk => walksTo_bothHalves (.inr rfl) (nextSlot_data hj hk))
    (walksTo_bothHalves (.inr rfl) (nextSlot_data_last hj))

end

theorem walksTo_bytes :
    WalksTo (nextSlot cfg n) ((List.range n.toNat).flatMap byteSlots) (some (slotAt .data n.toNat 0 false)) :=
  walksTo_flatMap_range (start := fun j => slotAt .data j 0 false) (fun _ => rfl) fun _ hj => walksTo_byteSlots hj

theorem walksTo_preamble (hnp : 1 ≤ cfg.np.toNat) :
    WalksTo (nextSlot cfg n) ((List.range cfg.np.toNat).flatMap fun i => bothHalves .preamble 0 i)
      (some (slotAt .data 0 0 false)) := by
  obtain ⟨m, hm⟩ := Nat.exists_eq_add_of_le' hnp
  rw [hm]
  exact walksTo_flatMap_range_succ (start := fun i => slotAt .preamble 0 i false) (fun _ => rfl)
    (fun i hi => walksTo_bothHalves (.inl rfl) (nextSlot_preamble (by omega)))
    (walksTo_bothHalves (.inl rfl) (nextSlot_preamble_last hm.symm))

/-- R150: the data part begins with the first bit of byte 0, or with the end bit of an empty packet. -/
theorem bytes_head? (m : Nat) :
    ((List.range m).flatMap byteSlots).head?.or (some (slotAt .data m 0 false)) = some (slotAt .data 0 0 false) := by
  cases m with
  | zero => rfl
  | succ m =>
    rw [List.range_succ_eq_map, List.flatMap_cons]
    rfl

/-- R152: after the end bit comes the cutout, if it is configured. -/
theorem walksTo_endBit :
    WalksTo (nextSlot cfg n) (bothHalves .data n.toNat 0) (cutoutSlotsOf cfg.bidi).head? := by
  refine walksTo_bothHalves (.inr rfl) ?_
  simp only [nextSlot, slotAt, Bool.true_eq_false, if_false, BitVec.ofNat_toNat, BitVec.setWidth_eq, if_true,
    cutoutSlotsOf]
  split <;> rfl

theorem walksTo_cutout (bidi : Bool) : WalksTo (nextSlot cfg n) (cutoutSlotsOf bidi) none := by
  cases bidi
  · trivial
  · exact ⟨rfl, rfl, rfl, rfl, trivial⟩

theorem walksTo_frameSlots (hnp : 1 ≤ cfg.np.toNat) :
    WalksTo (nextSlot cfg n) (frameSlots cfg.np.toNat n.toNat cfg.bidi) none := by
  rw [frameSlots_eq]
  refine .append (.append (.append ?_ ?_) ?_) (walksTo_cutout cfg.bidi)
  · have hhead := bytes_head? n.toNat
    exact hhead ▸ walksTo_preamble hnp
  · exact walksTo_bytes
  · rw [Option.or_none]
    exact walksTo_endBit

end

/-! ### The statement -/

theorem length_frameSlots (np n : Nat) (bidi : Bool) :
    (frameSlots np n bidi).length = 2 * np + 18 * n + 2 + (if bidi then 4 else 0) := by
  have hbyte : ∀ j, (byteSlots j).length = 18 := fun _ => rfl
  have hcutout : (cutoutSlotsOf bidi).length = if bidi then 4 else 0 := by cases bidi <;> rfl
  simp only [frameSlots_eq, List.length_append, List.length_flatMap, hbyte, hcutout, bothHalves, List.length_cons,
    List.length_nil, List.map_const', List.length_range, List.sum_replicate, smul_eq_mul]
  omega

/-- Settles O27: each part of the frame walks to the next part. -/
theorem nextSlotWalksFrame : Obligations.NextSlotWalksFrame := by
  unfold Obligations.NextSlotWalksFrame
  intro cfg actLen hnp _
  refine ⟨length_frameSlots _ _ _, ?_, fun _ _ hk => (walksTo_frameSlots hnp).next_eq_getElem? hk⟩
  obtain ⟨m, hm⟩ := Nat.exists_eq_add_of_le' hnp
  rw [hm, frameSlots_eq, List.range_succ_eq_map]
  rfl

end Sys2Proof.Machine
end

section
/-! SUPPORT. The bit of a Data slot and its length (41_tx_engine.md R151, R153, 44_zero_bit_override.md R300, R301). -/

namespace Sys2Proof.Machine

section
variable {s : State}

/-! ### The bit (R151) -/

theorem bitval_zero (j : Byte) : bitval s j 0 = .ok (decide (j = s.tx.actLen)) := if_pos rfl

theorem bitval_of_ne_zero {j k : Byte} (hk : k ≠ 0) (h8 : k.toNat ≤ 8) (hj : j.toNat < packetRegion) :
    bitval s j k = .ok ((s.mem.read (actBase + j.toNat)).getLsbD (8 - k.toNat)) := by
  have hmap : mapped (actBase + j.toNat) = true := decide_eq_true <| by
    simp only [actBase, bufferTop, packetRegion] at *
    omega
  rw [bitval, if_neg hk, if_neg (by omega), if_pos hmap]

/-- R66: the bytes that a list names in the buffer space. -/
theorem Memory.read_of_bytes_eq {m : Memory} {base : Nat} {bytes : List Byte}
    (h : m.bytes base bytes.length = bytes) {i : Nat} (hi : i < bytes.length) : m.read (base + i) = bytes.getD i 0 := by
  have := congrArg (·.getD i 0) h
  simpa [Memory.bytes, hi] using this

/-! ### The length (R153, R300) -/

theorem dur_of_data {c : Cursor} {b : Bool} (hph : c.phase = .data) (hb : bitval s c.byteIdx c.bitIdx = .ok b) :
    dur s c = .ok ((halfPeriod b s.tx.cfg).toNat + ovrAdjust s b (bitPosition c.byteIdx c.bitIdx) c.half) := by
  simp only [dur, hph, hb]

theorem ovrAdjust_one (pos : Nat) (half : Bool) : ovrAdjust s true pos half = 0 := if_neg (by simp)

theorem ovrAdjust_unmasked {pos : Nat} (h : 64 ≤ pos ∨ s.ovr.mask.getLsbD pos = false) (half : Bool) :
    ovrAdjust s false pos half = 0 := by
  refine if_neg ?_
  rintro ⟨-, hlt, hmask⟩
  rcases h with h | h
  · exact absurd hlt (Nat.not_lt.mpr h)
  · simp [h] at hmask

/-- R301: the P-phase half gets `deltaP`, the other `deltaN`. -/
theorem ovrAdjust_masked {pos : Nat} (hlt : pos < 64) (hmask : s.ovr.mask.getLsbD pos = true) (half : Bool) :
    ovrAdjust s false pos half = if half = !s.params.ovrPFirst then s.ovr.dP.toInt else s.ovr.dN.toInt := by
  rw [ovrAdjust, if_pos ⟨rfl, hlt, hmask⟩]
  cases half <;> cases hp : s.params.ovrPFirst <;> simp [isP, hp]

end

/-- Settles O31: the bit by its number, and the length by the bit and the override. -/
theorem overrideAdjustsMaskedZeros : Obligations.OverrideAdjustsMaskedZeros := by
  unfold Obligations.OverrideAdjustsMaskedZeros
  refine ⟨fun s bytes j k half hlen hle hact h8 hj => ?_, fun s c b hph hb => ?_⟩
  · have hzero : k = 0 → bitval s j k = .ok (decide (j.toNat = bytes.length)) := by
      rintro rfl
      rw [bitval_zero, ← hlen]
      exact congrArg Except.ok (decide_eq_decide.mpr BitVec.toNat_inj.symm)
    have hbit : k ≠ 0 → bitval s j k = .ok ((bytes.getD j.toNat 0).getLsbD (8 - k.toNat)) := fun hk => by
      have hlt := hj.resolve_left hk
      rw [bitval_of_ne_zero hk h8 (by omega), Memory.read_of_bytes_eq hact hlt]
    refine ⟨?_, hzero, hbit⟩
    by_cases hk : k = 0
    · exact (hzero hk).trans (congrArg Except.ok (if_pos hk).symm)
    · exact (hbit hk).trans (congrArg Except.ok (if_neg hk).symm)
  · have hd := dur_of_data hph hb
    refine ⟨?_, ?_, fun hz hlt hmask => ⟨fun hp => ?_, fun hp => ?_⟩⟩
    · rintro rfl
      simpa [ovrAdjust_one, halfPeriod] using hd
    · rintro rfl hun
      rw [hd, bitPosition, ovrAdjust_unmasked hun]
      simp [halfPeriod]
    all_goals
      subst hz
      rw [hd, bitPosition, ovrAdjust_masked hlt hmask, hp]
      simp [halfPeriod]

end Sys2Proof.Machine
end

section
/-! SUPPORT. The receiver's operations other than RX_CAPTURE (42_rx_engine.md R201, R208, R209). -/

namespace Sys2Proof.Machine

/-! ### RX_INIT (R201) -/

/-- A cleared region reads as zero. -/
theorem Memory.read_clear_inside {m : Memory} (hw : m.wf = true) {base len a : Nat} (hm : base + len ≤ bufferTop + 1)
    (ha : InRegion base len a) : (m.clear base len).read a = 0 :=
  (Memory.read_clear hw _ _ _ hm).trans (if_pos ha)

section
variable {s : State} (hw : s.mem.wf = true) (e : Bool)
include hw

theorem rxRestart_read_of_rxAddress {a : Nat} (ha : RxAddress a) : (rxRestart e s).mem.read a = 0 := by
  have hw' := Memory.clear_wf hw rxbBase packetRegion
  rcases ha with hb | hr
  · exact (Memory.read_fill_outside hw' _ (by decide) fun hr => not_rxb_of_rxr hr hb).trans
      (Memory.read_clear_inside hw (by decide) hb)
  · exact Memory.read_clear_inside hw' (by decide) hr

theorem rxRestart_sameOutside : SameMemoryOutside RxAddress s (rxRestart e s) := fun a ha =>
  calc (rxRestart e s).mem.read a
    _ = (s.mem.clear rxbBase packetRegion).read a :=
      Memory.read_fill_outside (Memory.clear_wf hw _ _) _ (by decide) fun h => ha (.inr h)
    _ = s.mem.read a := Memory.read_fill_outside hw _ (by decide) fun h => ha (.inl h)

end

/-- Settles O39: RX_INIT is `rxRestart`, whose fields and bytes are known. -/
theorem rxInitResetsReceiver : Obligations.RxInitResetsReceiver := by
  unfold Obligations.RxInitResetsReceiver
  intro s e hw
  exact ⟨finish (rxRestart e s), rfl, rfl, fun _ ha => rxRestart_read_of_rxAddress hw e ha,
    rxRestart_sameOutside hw e, rfl, rfl, rfl, rfl, rfl, rfl, rfl⟩

/-! ### RX_TAKE (R208) -/

theorem rxTakeHeader_toNat (s : State) : (rxTakeHeader s).toNat = s.rx.readyLen.toNat * 2 ^ 8 + 1 := by
  simp only [rxTakeHeader, toNat_append_eq_add, BitVec.toNat_ofNat]
  omega

theorem execRxTake_of_not_ready {s : State} (hr : s.rx.ready = false) : execRxTake s = .next (respond [0] s) := by
  simp [execRxTake, hr]

theorem Inv.execRxTake_of_ready {s : State} (hi : Inv s) (hr : s.rx.ready = true) :
    execRxTake s = .next (respond (rxTakeHeader s :: packBytes (s.mem.bytes rxrBase s.rx.readyLen.toNat))
      { s with rx := { s.rx with ready := false } }) := by
  have hmapped : rxrBase + s.rx.readyLen.toNat ≤ bufferTop + 1 :=
    (Nat.add_le_add_left hi.readyLen_le rxrBase).trans (by decide)
  rw [execRxTake, if_pos hr, if_pos hmapped]

theorem Memory.length_bytes (m : Memory) (base len : Nat) : (m.bytes base len).length = len := by
  simp [Memory.bytes]

/-- Settles O46: the ready packet is packed as R102 says, and what is left has nothing ready. -/
theorem rxTakeReturnsPacket : Obligations.RxTakeReturnsPacket := by
  unfold Obligations.RxTakeReturnsPacket
  intro s hi
  cases hr : s.rx.ready with
  | false =>
    have hrx : s.rx = { s.rx with ready := false } := by rw [← hr]
    exact ⟨_, execRxTake_of_not_ready hr, hrx, rfl, rfl, fun _ => rfl, nofun, fun _ => rfl, rfl, rfl, rfl, rfl, rfl,
      rfl, _, execRxTake_of_not_ready hr, rfl⟩
  | true =>
    have hlen := s.mem.length_bytes rxrBase s.rx.readyLen.toNat
    have hunpack := unpackBytes_packBytes (s.mem.bytes rxrBase s.rx.readyLen.toNat)
    refine ⟨_, hi.execRxTake_of_ready hr, rfl, rfl, rfl, nofun,
      fun _ => ⟨_, _, rfl, rxTakeHeader_toNat s, ?_, ?_, ?_⟩, fun _ => rfl, rfl, rfl, rfl, rfl, rfl, rfl, _,
      execRxTake_of_not_ready rfl, rfl⟩
    · rw [packBytes_length, hlen]
    · rw [hunpack, List.take_left' hlen]
    · rw [hunpack, List.drop_left' hlen]
      exact fun b hb => List.eq_of_mem_replicate hb

/-! ### RX_BIDI_FIRE (R209) -/

/-- Settles O47: one fire in each state of the one-shot. -/
theorem oneShotOpensWindows : Obligations.OneShotOpensWindows := by
  unfold Obligations.OneShotOpensWindows
  intro s
  cases hos : s.rx.os with
  | idle =>
    refine ⟨by simp, fun _ => ⟨noStep s, ?_, ⟨rfl, rfl, rfl, rfl, rfl, rfl⟩, rfl, fun _ => rfl, rfl⟩⟩
    simp only [exec, execRxBidiFire, hos]
  | armedCh1 =>
    refine ⟨fun _ => ⟨finish { s with rx := { s.rx with win := .ch1, os := .armedCh2 } }, ?_, rfl,
      fun _ => ⟨rfl, rfl⟩, nofun, fun _ => rfl, rfl, rfl, rfl, rfl, rfl, rfl, rfl⟩, nofun⟩
    simp only [exec, execRxBidiFire, hos]
  | armedCh2 =>
    refine ⟨fun _ => ⟨finish { s with rx := { s.rx with win := .ch2, os := .idle } }, ?_, rfl,
      nofun, fun _ => ⟨rfl, rfl⟩, fun _ => rfl, rfl, rfl, rfl, rfl, rfl, rfl, rfl⟩, nofun⟩
    simp only [exec, execRxBidiFire, hos]

end Sys2Proof.Machine
end

section
/-! SUPPORT. RX_CAPTURE (42_rx_engine.md R200, R202-R207): the class of an interval, one equation per case of each
framing step, that every capture completes, and what a capture leaves alone. -/

namespace Sys2Proof.Machine

/-! ### The bands (R200) -/

section
variable {p : Params} {d : Nat}

theorem classify_one_iff :
    classify p d = .one ↔ p.rxOneMinUs * p.rxTicksPerUs ≤ d ∧ d ≤ p.rxOneMaxUs * p.rxTicksPerUs := by
  unfold classify
  split
  · exact iff_of_true rfl ‹_›
  · exact iff_of_false (by split <;> nofun) ‹_›

/-- R5: the ONE band lies below the ZERO band, and neither is empty. -/
theorem bands_ordered (hp : p.valid = true) :
    p.rxOneMinUs * p.rxTicksPerUs ≤ p.rxOneMaxUs * p.rxTicksPerUs ∧
    p.rxOneMaxUs * p.rxTicksPerUs < p.rxZeroMinUs * p.rxTicksPerUs ∧
    p.rxZeroMinUs * p.rxTicksPerUs ≤ p.rxZeroMaxUs * p.rxTicksPerUs := by
  simp only [Params.valid, decide_eq_true_eq] at hp
  have hticks : 0 < p.rxTicksPerUs := by omega
  exact ⟨Nat.mul_le_mul_right _ (by omega), Nat.mul_lt_mul_of_pos_right (by omega) hticks,
    Nat.mul_le_mul_right _ (by omega)⟩

theorem classify_zero_iff (hp : p.valid = true) :
    classify p d = .zero ↔ p.rxZeroMinUs * p.rxTicksPerUs ≤ d ∧ d ≤ p.rxZeroMaxUs * p.rxTicksPerUs := by
  have hb := bands_ordered hp
  unfold classify
  split
  · exact iff_of_false nofun (by omega)
  · split
    · exact iff_of_true rfl ‹_›
    · exact iff_of_false nofun ‹_›

theorem classify_invalid_iff (hp : p.valid = true) :
    classify p d = .invalid ↔ d < p.rxOneMinUs * p.rxTicksPerUs ∨
      (p.rxOneMaxUs * p.rxTicksPerUs < d ∧ d < p.rxZeroMinUs * p.rxTicksPerUs) ∨
      p.rxZeroMaxUs * p.rxTicksPerUs < d := by
  have hb := bands_ordered hp
  have hone := classify_one_iff (p := p) (d := d)
  have hzero := classify_zero_iff (d := d) hp
  cases hc : classify p d <;> simp only [hc, reduceCtorEq, true_iff, false_iff] at hone hzero ⊢ <;> omega

end

/-! ### A capture through its framing step (R202) -/

section
variable {s u : State} {ts : Word} {one : Bool}

theorem captureStep_of_invalid (hv : s.rx.tsValid = true) (hc : classify s.params (interval s ts) = .invalid) :
    captureStep ts s = .ok (huntReset (recordEdge ts s)) := by
  simp only [captureStep, hv, if_true, hc]

theorem captureStep_of_half (hv : s.rx.tsValid = true) (hc : classify s.params (interval s ts) = classOfBit one) :
    captureStep ts s = frameStep one ts (interval s ts) (recordEdge ts s) := by
  cases one <;> simp [captureStep, hv, hc, classOfBit]

theorem captureStep_of_hunt (hv : s.rx.tsValid = true) (hst : s.rx.st = .hunt)
    (hc : classify s.params (interval s ts) = classOfBit one) :
    captureStep ts s = .ok (huntStep one (recordEdge ts s)) := by
  simp only [captureStep_of_half hv hc, frameStep, recordEdge_rx, hst]

theorem captureStep_of_start2 (hv : s.rx.tsValid = true) (hst : s.rx.st = .start2)
    (hc : classify s.params (interval s ts) = classOfBit one) :
    captureStep ts s = .ok (start2Step one (recordEdge ts s)) := by
  simp only [captureStep_of_half hv hc, frameStep, recordEdge_rx, hst]

theorem captureStep_of_data (hv : s.rx.tsValid = true) (hst : s.rx.st = .data)
    (hc : classify s.params (interval s ts) = classOfBit one) :
    captureStep ts s = dataStep one ts (interval s ts) (recordEdge ts s) := by
  simp only [captureStep_of_half hv hc, frameStep, recordEdge_rx, hst]

/-- R202: with a valid reference, only the reference changes. -/
theorem recordEdge_rx_of_valid (hv : s.rx.tsValid = true) (ts : Word) :
    (recordEdge ts s).rx = { s.rx with lastTs := ts } := by
  rw [recordEdge_rx, ← hv]

/-- R202: the receiver leaves Hunt only with a valid reference. -/
theorem Inv.tsValid_of_ne_hunt (hi : Inv s) (hst : s.rx.st ≠ .hunt) : s.rx.tsValid = true := by
  by_contra hv
  exact hst (hi.rx.noEdge (by simpa using hv)).2.1

theorem execRxCapture_of_captureStep (hts : ts.toNat < 2 ^ s.params.capBits) (h : captureStep ts s = .ok u) :
    exec (.rxCapture ts) s = .next (finish u) := by
  simp only [exec, execRxCapture, if_neg (Nat.not_le.mpr hts), h]

theorem captureFrame_finish (hm : SameMemoryOutside RxAddress s u) (h : captureStep ts s = .ok u) :
    CaptureFrame s (finish u) := by
  obtain ⟨hp, htx, hovr, hbidi, hfault, hports, -⟩ := captureStep_frame h
  exact ⟨hp, htx, hovr, hbidi, hfault, hports, rfl, hm⟩

/-- R202: a capture whose framing step completes answers a next state, and changes the receive side only. -/
theorem Inv.rxCapture_next (hi : Inv s) (hts : ts.toNat < 2 ^ s.params.capBits)
    (h : captureStep ts s = .ok u) : exec (.rxCapture ts) s = .next (finish u) ∧ CaptureFrame s (finish u) :=
  ⟨execRxCapture_of_captureStep hts h, captureFrame_finish (captureStep_sameOutside hi hts h) h⟩

end

/-! ### The reset to hunting (R207) -/

section
variable {s : State} (hw : s.mem.wf = true)
include hw

theorem clearRxb_read {i : Nat} (hi : i < packetRegion) :
    (s.mem.clear rxbBase packetRegion).read (rxbBase + i) = 0 :=
  Memory.read_clear_inside hw (by decide) ⟨by omega, by omega⟩

theorem clearRxb_sameOutside {a : Nat} (ha : ¬ InRegion rxbBase packetRegion a) :
    (s.mem.clear rxbBase packetRegion).read a = s.mem.read a :=
  Memory.read_fill_outside hw _ (by decide) ha

theorem backToHunt_huntReset (ts : Word) : BackToHunt s (finish (huntReset (recordEdge ts s))) ts :=
  ⟨rfl, fun _ hi => clearRxb_read hw hi, fun _ ha => clearRxb_sameOutside hw ha⟩

end

/-- Settles O41: the bands are those of R200, and an INVALID interval is a reset to hunting. -/
theorem invalidIntervalResetsFraming : Obligations.InvalidIntervalResetsFraming := by
  unfold Obligations.InvalidIntervalResetsFraming
  refine ⟨fun p d hp => ⟨classify_one_iff, classify_zero_iff hp, classify_invalid_iff hp⟩, fun s ts hw hts hv hc => ?_⟩
  have hstep := captureStep_of_invalid hv hc
  exact ⟨_, execRxCapture_of_captureStep hts hstep,
    captureFrame_finish (huntReset_sameOutside (s := recordEdge ts s) hw) hstep, backToHunt_huntReset hw ts⟩

/-! ### Hunting and the start bit (R203, R204) -/

section
variable {s : State}

theorem huntStep_zero_of_le (h : huntGoal s.params ≤ s.rx.h.toNat) :
    huntStep false s = { s with rx := { s.rx with st := .start2 } } := by
  simp [huntStep, h]

theorem huntStep_zero_of_lt (h : s.rx.h.toNat < huntGoal s.params) :
    huntStep false s = { s with rx := { s.rx with h := 0 } } := by
  simp [huntStep, Nat.not_le.mpr h]

/-- R5: `H` fits the counter of ONE halves. -/
theorem huntGoal_lt {p : Params} (hp : p.valid = true) : huntGoal p < 2 ^ 8 := by
  simp only [Params.valid, decide_eq_true_eq] at hp
  unfold huntGoal
  omega

end

/-- Settles O42: the three cases of `hunt_step`. -/
theorem huntCountsOneHalves : Obligations.HuntCountsOneHalves := by
  unfold Obligations.HuntCountsOneHalves
  intro s ts hi hts hv hst
  have hrx := recordEdge_rx_of_valid hv ts
  have hstep := fun one => captureStep_of_hunt (ts := ts) (one := one) hv hst
  have hmem := fun one a => congrArg (·.read a) (huntStep_mem one (recordEdge ts s))
  refine ⟨fun hc => ?_, fun hc => ?_⟩
  · obtain ⟨hex, hframe⟩ := hi.rxCapture_next hts (hstep true hc)
    refine ⟨_, hex, hframe, ?_, hmem true, ?_⟩
    · exact congrArg (fun r : Rx => { r with h := (finish (huntStep true (recordEdge ts s))).rx.h }) hrx
    · have hgoal := huntGoal_lt hi.params
      exact Nat.mod_eq_of_lt ((min_le_right _ _).trans_lt hgoal)
  · obtain ⟨hex, hframe⟩ := hi.rxCapture_next hts (hstep false hc)
    refine ⟨_, hex, hframe, hmem false, fun hle => ?_, fun hlt => ?_⟩
    · rw [huntStep_zero_of_le (s := recordEdge ts s) hle]
      exact congrArg (fun r : Rx => { r with st := .start2 }) hrx
    · rw [huntStep_zero_of_lt (s := recordEdge ts s) hlt]
      exact congrArg (fun r : Rx => { r with h := 0 }) hrx

/-- Settles O43: the two cases of `start2_step`. -/
theorem startBitSecondHalf : Obligations.StartBitSecondHalf := by
  unfold Obligations.StartBitSecondHalf
  intro s ts hi hts hst
  have hv := hi.tsValid_of_ne_hunt (by simp [hst])
  refine ⟨fun hc => ?_, fun hc => ?_⟩
  · have hstep := captureStep_of_start2 (one := false) hv hst hc
    obtain ⟨hex, hframe⟩ := hi.rxCapture_next hts hstep
    refine ⟨_, hex, hframe, ?_, fun _ hlt => clearRxb_read hi.mem hlt, fun _ ha => clearRxb_sameOutside hi.mem ha⟩
    exact congrArg (fun r : Rx => { r with st := .data, first := .none, bitcnt := 0, acc := 0, n := 0 })
      (recordEdge_rx_of_valid hv ts)
  · have hstep := captureStep_of_start2 (one := true) hv hst hc
    obtain ⟨hex, hframe⟩ := hi.rxCapture_next hts hstep
    exact ⟨_, hex, hframe, backToHunt_huntReset hi.mem ts⟩

end Sys2Proof.Machine
end

section
/-! SUPPORT. The framing step of a packet and its end (42_rx_engine.md R205, R206): one equation per case, and what a
capture keeps of the ready slot and the one-shot (R202, R207). -/

namespace Sys2Proof.Machine

/-! ### The data step (R205), case by case -/

section
variable {s : State} {one : Bool}

section
variable {ts : Word} {d : Nat}

theorem dataStep_firstHalf (hf : s.rx.first = .none) (hend : ¬ (s.rx.bitcnt = 8 ∧ one = true)) :
    dataStep one ts d s = .ok { s with rx := { s.rx with first := firstOf one } } := by
  rw [dataStep, if_pos hf, if_neg hend]

theorem dataStep_packetEnd (hf : s.rx.first = .none) (h8 : s.rx.bitcnt = 8) (hn : s.rx.n.toNat ≤ packetRegion) :
    dataStep true ts d s = .ok (packetEnd ts d s) := by
  have hmapped : rxbBase + s.rx.n.toNat ≤ bufferTop + 1 := (Nat.add_le_add_left hn rxbBase).trans (by decide)
  rw [dataStep, if_pos hf, if_pos ⟨h8, rfl⟩, if_pos hmapped]

theorem dataStep_disagree (hf : s.rx.first ≠ .none) (hne : s.rx.first ≠ firstOf one) :
    dataStep one ts d s = .ok (huntReset s) := by
  rw [dataStep, if_neg hf, if_pos hne]

theorem firstOf_ne_none (one : Bool) : firstOf one ≠ .none := by cases one <;> nofun

theorem dataStep_separator (hf : s.rx.first = firstOf one) (h8 : s.rx.bitcnt = 8) :
    dataStep one ts d s = .ok { s with rx := { s.rx with first := .none, bitcnt := 0, acc := 0 } } := by
  rw [dataStep, if_neg (hf ▸ firstOf_ne_none one), if_neg (not_not.mpr hf), if_pos h8]

theorem dataStep_bit (hf : s.rx.first = firstOf one) (h8 : s.rx.bitcnt ≠ 8) :
    dataStep one ts d s = takeBit one s := by
  rw [dataStep, if_neg (hf ▸ firstOf_ne_none one), if_neg (not_not.mpr hf), if_neg h8]

end

/-! ### A complete bit -/

theorem shiftIn_toNat (acc : Byte) (bit : Bool) : (shiftIn acc bit).toNat = 2 * (acc.toNat % 128) + bit.toNat := by
  simp only [shiftIn, toNat_append_eq_add, BitVec.toNat_ofBool, BitVec.extractLsb'_toNat, Nat.shiftRight_zero]
  omega

theorem bitcnt_succ_toNat {b : BitVec 4} (h : b.toNat < 8) : (b + 1).toNat = b.toNat + 1 :=
  BitVec.toNat_add_of_lt (y := 1) (by simp; omega)

theorem takeBit_of_lt (h : s.rx.bitcnt.toNat < 7) :
    takeBit one s =
      .ok { s with rx := { s.rx with first := .none, acc := shiftIn s.rx.acc one, bitcnt := s.rx.bitcnt + 1 } } := by
  have hne : s.rx.bitcnt + 1 ≠ 8 := fun h8 => by
    have hsucc : 8 = s.rx.bitcnt.toNat + 1 := (congrArg BitVec.toNat h8).symm.trans (bitcnt_succ_toNat (by omega))
    omega
  exact if_neg hne

theorem takeBit_overflow (h7 : s.rx.bitcnt = 7) (hn : s.rx.n.toNat = s.params.rxCapacity) :
    takeBit one s = .ok (huntReset s) := by
  have h8 : s.rx.bitcnt + 1 = 8 := by rw [h7]; rfl
  rw [takeBit, if_pos h8, storeByte, if_pos hn]
  rfl

/-- R60: a byte below the region's size is stored in RXB, and so at a mapped address. -/
theorem rxStoreAddr_inRegion (hn : s.rx.n.toNat < packetRegion) : InRegion rxbBase packetRegion (rxStoreAddr s) :=
  ⟨Nat.le_add_right _ _, Nat.add_lt_add_left hn _⟩

theorem mapped_rxStoreAddr (hn : s.rx.n.toNat < packetRegion) : mapped (rxStoreAddr s) = true :=
  decide_eq_true ((rxStoreAddr_inRegion hn).2.le.trans (by decide))

theorem takeBit_store (h7 : s.rx.bitcnt = 7) (hn : s.rx.n.toNat < packetRegion)
    (hfree : s.rx.n.toNat ≠ s.params.rxCapacity) :
    takeBit one s = .ok { s with
      mem := s.mem.write (rxStoreAddr s) (shiftIn s.rx.acc one)
      rx := { s.rx with first := .none, acc := shiftIn s.rx.acc one, bitcnt := 8, n := s.rx.n + 1 } } := by
  have h8 : s.rx.bitcnt + 1 = 8 := by rw [h7]; rfl
  rw [takeBit, if_pos h8, h8]
  exact (if_neg hfree).trans (if_pos (mapped_rxStoreAddr hn))

end

/-! ### What a framing step keeps (R202, R207) -/

/-- Only the framing fields and RXB differ: the edge, `bidi_en`, the ready slot and the one-shot are kept. -/
structure OnlyFraming (s t : State) : Prop where
  rx : t.rx = { s.rx with
    st := t.rx.st, h := t.rx.h, first := t.rx.first, bitcnt := t.rx.bitcnt, acc := t.rx.acc, n := t.rx.n }
  mem : SameMemoryOutside (InRegion rxbBase packetRegion) s t

section
variable {s t : State} {one : Bool}

theorem huntReset_onlyFraming (hw : s.mem.wf = true) : OnlyFraming s (huntReset s) :=
  ⟨rfl, fun _ ha => clearRxb_sameOutside hw ha⟩

theorem huntStep_onlyFraming (one : Bool) (s : State) : OnlyFraming s (huntStep one s) := by
  refine ⟨?_, fun a _ => congrArg (·.read a) (huntStep_mem one s)⟩
  unfold huntStep
  split
  · rfl
  · split <;> rfl

theorem start2Step_onlyFraming (hw : s.mem.wf = true) (one : Bool) : OnlyFraming s (start2Step one s) := by
  cases one
  · exact ⟨rfl, fun _ ha => clearRxb_sameOutside hw ha⟩
  · exact huntReset_onlyFraming hw

/-- A change of the framing keeps the ready slot, its bytes and the one-shot. -/
theorem OnlyFraming.slot_kept (h : OnlyFraming s t) :
    t.rx.ready = s.rx.ready ∧ t.rx.readyLen = s.rx.readyLen ∧ t.rx.os = s.rx.os ∧ t.rx.osRef = s.rx.osRef ∧
    t.rx.win = s.rx.win ∧ ∀ i < packetRegion, t.mem.read (rxrBase + i) = s.mem.read (rxrBase + i) := by
  refine ⟨?_, ?_, ?_, ?_, ?_, fun i hlt => h.mem _ (not_rxb_of_rxr ⟨by omega, by omega⟩)⟩
  all_goals rw [h.rx]

theorem OnlyFraming.edge_kept (h : OnlyFraming s t) :
    t.rx.lastTs = s.rx.lastTs ∧ t.rx.tsValid = s.rx.tsValid ∧ t.rx.bidiEn = s.rx.bidiEn := by
  refine ⟨?_, ?_, ?_⟩
  all_goals rw [h.rx]

end

/-! ### Every framing step completes (R202) -/

section
variable {s : State} (hi : Inv s)
include hi

theorem Inv.n_le : s.rx.n.toNat ≤ packetRegion := hi.rx.n.trans (rxCapacity_le_packetRegion hi.params)

/-- R205: a byte is stored only below the capacity, so at an address of RXB. -/
theorem Inv.n_lt (hfree : s.rx.n.toNat ≠ s.params.rxCapacity) : s.rx.n.toNat < packetRegion :=
  (lt_of_le_of_ne hi.rx.n hfree).trans_le (rxCapacity_le_packetRegion hi.params)

/-- R205: every bit but the eighth only counts, and the eighth ends a byte. -/
theorem Inv.takeBit_ok (one : Bool) (h8 : s.rx.bitcnt ≠ 8) : ∃ u, takeBit one s = .ok u ∧ OnlyFraming s u := by
  have hle := hi.rx.bitcnt
  have hne : s.rx.bitcnt.toNat ≠ 8 := fun e => h8 (BitVec.eq_of_toNat_eq e)
  by_cases hlt : s.rx.bitcnt.toNat < 7
  · exact ⟨_, takeBit_of_lt hlt, rfl, fun _ _ => rfl⟩
  · have h7 : s.rx.bitcnt = 7 := BitVec.eq_of_toNat_eq (y := 7) (by simp; omega)
    by_cases hfull : s.rx.n.toNat = s.params.rxCapacity
    · exact ⟨_, takeBit_overflow h7 hfull, huntReset_onlyFraming hi.mem⟩
    · have hn := hi.n_lt hfull
      exact ⟨_, takeBit_store h7 hn hfull, rfl,
        fun a ha => Memory.read_write_of_ne hi.mem _ fun e => ha (e ▸ rxStoreAddr_inRegion hn)⟩

/-- R205: every case of the data step but the end of a packet changes the framing only. -/
theorem Inv.dataStep_ok (one : Bool) (ts : Word) (d : Nat) : ∃ u, dataStep one ts d s = .ok u ∧
    ((one = true ∧ s.rx.first = .none ∧ s.rx.bitcnt = 8 ∧ u = packetEnd ts d s) ∨ OnlyFraming s u) := by
  by_cases hf : s.rx.first = .none
  · by_cases hend : s.rx.bitcnt = 8 ∧ one = true
    · obtain ⟨h8, rfl⟩ := hend
      exact ⟨_, dataStep_packetEnd hf h8 hi.n_le, .inl ⟨rfl, hf, h8, rfl⟩⟩
    · exact ⟨_, dataStep_firstHalf hf hend, .inr ⟨rfl, fun _ _ => rfl⟩⟩
  · by_cases hne : s.rx.first = firstOf one
    · by_cases h8 : s.rx.bitcnt = 8
      · exact ⟨_, dataStep_separator hne h8, .inr ⟨rfl, fun _ _ => rfl⟩⟩
      · obtain ⟨u, hu, h⟩ := hi.takeBit_ok one h8
        exact ⟨u, (dataStep_bit hne h8).trans hu, .inr h⟩
    · exact ⟨_, dataStep_disagree hf hne, .inr (huntReset_onlyFraming hi.mem)⟩

theorem Inv.frameStep_ok (one : Bool) (ts : Word) (d : Nat) : ∃ u, frameStep one ts d s = .ok u ∧
    ((one = true ∧ s.rx.st = .data ∧ s.rx.first = .none ∧ s.rx.bitcnt = 8 ∧ u = packetEnd ts d s) ∨
      OnlyFraming s u) := by
  cases hst : s.rx.st with
  | hunt => exact ⟨_, by rw [frameStep, hst], .inr (huntStep_onlyFraming one s)⟩
  | start2 => exact ⟨_, by rw [frameStep, hst], .inr (start2Step_onlyFraming hi.mem one)⟩
  | data =>
    obtain ⟨u, hu, h⟩ := hi.dataStep_ok one ts d
    refine ⟨u, by rw [frameStep, hst, hu], h.imp_left ?_⟩
    rintro ⟨hone, hf, h8, hend⟩
    exact ⟨hone, rfl, hf, h8, hend⟩

end

/-! ### The end of a packet (R206) -/

section
variable {s : State}

theorem rxAccepts_iff :
    rxAccepts s = true ↔ 2 ≤ s.rx.n.toNat ∧ ValidChecksum (s.mem.bytes rxbBase s.rx.n.toNat) := by
  rw [rxAccepts, decide_eq_true_eq]
  refine and_congr_right fun hn => (validChecksum_iff fun hnil => ?_).symm
  have hlen := s.mem.length_bytes rxbBase s.rx.n.toNat
  simp [hnil] at hlen
  omega

section
variable {ts : Word} {d : Nat}

theorem packetEnd_of_accepts (ha : rxAccepts s = true) :
    packetEnd ts d s = huntReset (armOneShot ts d (fillReady s)) := if_pos ha

theorem packetEnd_of_rejects (ha : ¬ rxAccepts s = true) : packetEnd ts d s = huntReset s := if_neg ha

theorem armOneShot_of_enabled (he : s.rx.bidiEn = true) :
    armOneShot ts d s =
      { s with rx := { s.rx with os := .armedCh1, osRef := endBitEnd s.params ts d, win := .none } } :=
  if_pos he

theorem armOneShot_of_disabled (he : s.rx.bidiEn = false) : armOneShot ts d s = s := by
  rw [armOneShot, if_neg (by simp [he])]

/-- Either way the receiver is back in Hunt, and the edge and `bidi_en` are kept. -/
theorem packetEnd_eq_huntReset (hw : s.mem.wf = true) (ts : Word) (d : Nat) :
    ∃ v, packetEnd ts d s = huntReset v ∧ v.mem.wf = true ∧ v.rx.lastTs = s.rx.lastTs ∧ v.rx.tsValid = s.rx.tsValid ∧
      v.rx.bidiEn = s.rx.bidiEn := by
  by_cases ha : rxAccepts s = true
  · refine ⟨_, packetEnd_of_accepts ha, ?_⟩
    rw [armOneShot_mem]
    refine ⟨Memory.copy_wf hw _ _ _, ?_⟩
    cases he : s.rx.bidiEn
    · rw [armOneShot_of_disabled (s := fillReady s) he]
      exact ⟨rfl, rfl, he⟩
    · rw [armOneShot_of_enabled (s := fillReady s) he]
      exact ⟨rfl, rfl, he⟩
  · exact ⟨s, packetEnd_of_rejects ha, hw, rfl, rfl, rfl⟩

theorem armOneShot_ready (ts : Word) (d : Nat) (s : State) :
    (armOneShot ts d s).rx.ready = s.rx.ready ∧ (armOneShot ts d s).rx.readyLen = s.rx.readyLen := by
  unfold armOneShot
  split <;> exact ⟨rfl, rfl⟩

/-- R206: RXR gets RXB's bytes. -/
theorem packetEnd_read_rxr (hw : s.mem.wf = true) (ha : rxAccepts s = true) {i : Nat} (hi : i < packetRegion) :
    (packetEnd ts d s).mem.read (rxrBase + i) = s.mem.read (rxbBase + i) := by
  have hrxr : InRegion rxrBase packetRegion (rxrBase + i) := ⟨by omega, by omega⟩
  have hw' := Memory.copy_wf hw rxbBase rxrBase packetRegion
  rw [packetEnd_of_accepts ha, huntReset_mem, armOneShot_mem, fillReady_mem]
  refine (Memory.read_fill_outside hw' _ (by decide) (not_rxb_of_rxr hrxr)).trans ?_
  refine (Memory.read_copy hw _ _ _ _ (by decide)).trans ((if_pos hrxr).trans ?_)
  rw [Nat.add_sub_cancel_left]

end

/-- R5: a timestamp fits its field. -/
theorem capMod_toNat {p : Params} (hp : p.valid = true) (n : Nat) : (capMod p n).toNat = n % 2 ^ p.capBits := by
  have hcap : p.capBits ≤ 32 := by
    simp only [Params.valid, decide_eq_true_eq] at hp
    omega
  rw [capMod, BitVec.toNat_ofNat]
  exact Nat.mod_eq_of_lt ((Nat.mod_lt _ (Nat.two_pow_pos _)).trans_le (Nat.pow_le_pow_right (by decide) hcap))

end

/-! ### Every capture completes (R202) -/

theorem HalfClass.eq_invalid_or (c : HalfClass) : c = .invalid ∨ ∃ one, c = classOfBit one := by
  cases c with
  | one => exact .inr ⟨true, rfl⟩
  | zero => exact .inr ⟨false, rfl⟩
  | invalid => exact .inl rfl

/-- R202: a capture records its edge and, unless it accepts a packet, changes beside that the framing only. -/
theorem Inv.captureStep_ok {s : State} {ts : Word} (hi : Inv s) (hts : ts.toNat < 2 ^ s.params.capBits) :
    ∃ u, captureStep ts s = .ok u ∧ (u.rx.lastTs = ts ∧ u.rx.tsValid = true ∧ u.rx.bidiEn = s.rx.bidiEn) ∧
      (¬ AcceptsPacket s ts → OnlyFraming (recordEdge ts s) u) := by
  have he := inv_recordEdge hi hts
  by_cases hv : s.rx.tsValid = true
  · rcases (classify s.params (interval s ts)).eq_invalid_or with hc | ⟨one, hc⟩
    · have h := huntReset_onlyFraming he.mem
      exact ⟨_, captureStep_of_invalid hv hc, h.edge_kept, fun _ => h⟩
    · rw [captureStep_of_half hv hc]
      obtain ⟨u, hu, ⟨rfl, hst, hf, h8, rfl⟩ | h⟩ := he.frameStep_ok one ts (interval s ts)
      · obtain ⟨v, hreset, -, hkept⟩ := packetEnd_eq_huntReset he.mem ts (interval s ts)
        refine ⟨_, hu, hreset ▸ hkept, fun hno => ?_⟩
        have hrejects : ¬ rxAccepts (recordEdge ts s) = true := fun ha =>
          hno ⟨hts, hv, hst, hf, h8, hc, rxAccepts_iff.mp ha⟩
        rw [packetEnd_of_rejects hrejects]
        exact huntReset_onlyFraming he.mem
      · exact ⟨u, hu, h.edge_kept, fun _ => h⟩
  · exact ⟨_, if_neg hv, ⟨rfl, rfl, rfl⟩, fun _ => ⟨rfl, fun _ _ => rfl⟩⟩

/-! ### The statements -/

/-- Settles O40: a capture completes, and what it keeps is what its framing step keeps. -/
theorem captureRecordsEdge : Obligations.CaptureRecordsEdge := by
  unfold Obligations.CaptureRecordsEdge
  refine fun s ts hi => ⟨fun hts => ?_, fun hwide => ?_⟩
  · obtain ⟨u, hu, ⟨hlast, hvalid, hbidi⟩, hkeep⟩ := hi.captureStep_ok hts
    obtain ⟨hex, hframe⟩ := hi.rxCapture_next hts hu
    refine ⟨_, hex, hframe, hlast, hvalid, hbidi, fun hno => (hkeep hno).slot_kept, fun hnone => ?_⟩
    have hfirst : captureStep ts s = .ok (recordEdge ts s) := if_neg (by simp [hnone])
    cases hfirst.symm.trans hu
    exact ⟨rfl, fun _ => rfl⟩
  · exact ⟨raise .fieldInvalid s, if_pos hwide, rfl, rfl, rfl, rfl, rfl, fun _ => rfl, rfl, rfl, rfl⟩

/-- Settles O44: one equation of the data step for each clause. -/
theorem dataHalvesMakeBytes : Obligations.DataHalvesMakeBytes := by
  unfold Obligations.DataHalvesMakeBytes
  intro s ts one hi hts hst hc hend
  have hv := hi.tsValid_of_ne_hunt (by simp [hst])
  obtain ⟨u, hu, -, -⟩ := hi.captureStep_ok hts
  obtain ⟨hex, hframe⟩ := hi.rxCapture_next hts hu
  rw [captureStep_of_data hv hst hc] at hu
  have hrx := recordEdge_rx_of_valid hv ts
  have hcap := rxCapacity_le_packetRegion hi.params
  have hcases : ∀ {v : State}, dataStep one ts (interval s ts) (recordEdge ts s) = .ok v → u = v :=
    fun h => Except.ok.inj (hu.symm.trans h)
  refine ⟨_, hex, hframe, fun hf => ?first, fun hf hne => ?disagree, fun hf h8 => ?separator, fun hf hlt => ?bit,
    fun hf h7 hn => ?byte, fun hf h7 hn => ?overflow⟩
  case first =>
    obtain rfl := hcases (dataStep_firstHalf hf fun he => hend ⟨hf, he⟩)
    exact ⟨congrArg (fun r : Rx => { r with first := firstOf one }) hrx, fun _ => rfl⟩
  case disagree =>
    obtain rfl := hcases (dataStep_disagree hf hne)
    exact backToHunt_huntReset hi.mem ts
  case separator =>
    obtain rfl := hcases (dataStep_separator hf h8)
    exact ⟨congrArg (fun r : Rx => { r with first := .none, bitcnt := 0, acc := 0 }) hrx, fun _ => rfl⟩
  case bit =>
    have h8 : s.rx.bitcnt ≠ 8 := fun h8 => by simp [h8] at hlt
    obtain rfl := hcases ((dataStep_bit (s := recordEdge ts s) hf h8).trans (takeBit_of_lt hlt))
    exact ⟨congrArg
      (fun r : Rx => { r with first := .none, bitcnt := s.rx.bitcnt + 1, acc := shiftIn s.rx.acc one }) hrx,
      bitcnt_succ_toNat (hlt.trans (by decide)), shiftIn_toNat _ _, fun _ => rfl⟩
  case byte =>
    have h8 : s.rx.bitcnt ≠ 8 := by simp [h7]
    have h32 : packetRegion = 32 := rfl
    obtain rfl := hcases ((dataStep_bit (s := recordEdge ts s) hf h8).trans (takeBit_store h7 (hn.trans_le hcap) hn.ne))
    exact ⟨congrArg (fun r : Rx => { r with first := .none, bitcnt := 8, acc := shiftIn s.rx.acc one, n := s.rx.n + 1 })
      hrx, BitVec.toNat_add_of_lt (y := 1) (by simp; omega), shiftIn_toNat _ _,
      (Memory.read_write hi.mem _ _ _).trans (if_pos ⟨rfl, mapped_rxStoreAddr (hn.trans_le hcap)⟩),
      fun _ ha => Memory.read_write_of_ne hi.mem _ ha⟩
  case overflow =>
    have h8 : s.rx.bitcnt ≠ 8 := by simp [h7]
    obtain rfl := hcases ((dataStep_bit (s := recordEdge ts s) hf h8).trans (takeBit_overflow h7 hn))
    exact backToHunt_huntReset hi.mem ts

/-- Settles O45: `packet_end` resets to hunting, after it has filled the ready slot and armed the one-shot if the packet
is accepted. -/
theorem packetEndAcceptsValidPackets : Obligations.PacketEndAcceptsValidPackets := by
  unfold Obligations.PacketEndAcceptsValidPackets
  intro s ts hi hts hst hf h8 hc
  have hv := hi.tsValid_of_ne_hunt (by simp [hst])
  have hstep : captureStep ts s = .ok (packetEnd ts (interval s ts) (recordEdge ts s)) :=
    (captureStep_of_data (one := true) hv hst hc).trans (dataStep_packetEnd hf h8 hi.n_le)
  obtain ⟨hex, hframe⟩ := hi.rxCapture_next hts hstep
  have hiff := rxAccepts_iff (s := recordEdge ts s)
  obtain ⟨v, hreset, hw, -, -, hbidi⟩ := packetEnd_eq_huntReset (s := recordEdge ts s) hi.mem ts (interval s ts)
  refine ⟨_, hex, hframe, ?_, ?_, ?_, ?_, ?_, ?_, ?_, fun i hlt => ?_, fun hok => ?_, fun hbad => ?_⟩
  iterate 6 · rw [hreset]; rfl
  · rw [hreset]
    exact hbidi
  · rw [hreset]
    exact clearRxb_read hw hlt
  · have ha := hiff.mpr hok
    obtain ⟨hready, hlen⟩ := armOneShot_ready ts (interval s ts) (fillReady (recordEdge ts s))
    have hslot := fun i => packetEnd_read_rxr (ts := ts) (d := interval s ts) (i := i) (s := recordEdge ts s) hi.mem ha
    rw [packetEnd_of_accepts ha] at hslot ⊢
    refine ⟨hready, hlen, hslot, fun he => ?_, fun he => ?_⟩
    · rw [armOneShot_of_enabled (s := fillReady (recordEdge ts s)) he]
      exact ⟨rfl, rfl, capMod_toNat hi.params _⟩
    · rw [armOneShot_of_disabled (s := fillReady (recordEdge ts s)) he]
      exact ⟨rfl, rfl, rfl⟩
  · rw [packetEnd_of_rejects fun ha => hbad (hiff.mp ha)]
    exact backToHunt_huntReset hi.mem ts

end Sys2Proof.Machine
end

section
/-! SUPPORT. The receiver given a sequence of captures: what one capture keeps, and that it locks only after a whole
preamble (42_rx_engine.md R202-R204, R213). -/

namespace Sys2Proof.Machine

/-! ### A receiver that measures intervals -/

/-- A receiver with parameters `p`, in a state of the invariant and with an edge to measure from. -/
structure Listening (p : Params) (s : State) : Prop where
  inv : Inv s
  params : s.params = p
  edge : s.rx.tsValid = true

/-- R202: every capture is taken, and the next interval is measured from its edge. -/
theorem Listening.capture {p : Params} {s : State} (hs : Listening p s) {ts : Word} (hts : ts.toNat < 2 ^ p.capBits) :
    ∃ t, exec (.rxCapture ts) s = .next t ∧ Listening p t ∧ t.rx.lastTs = ts := by
  obtain ⟨hi, rfl, -⟩ := hs
  obtain ⟨t, ht, ⟨hparams, -⟩, hlast, hedge, -⟩ := (captureRecordsEdge s ts hi).1 hts
  exact ⟨t, ht, ⟨exec_keeps_inv hi ht, hparams, hedge⟩, hlast⟩

/-! ### The lock (R213) -/

/-- R203, R204: what the framing state says of the classes of the halves so far: how many ONE halves were the last ones,
and that the start bit came after a whole preamble. -/
def Locking (p : Params) (s : State) (cs : List HalfClass) : Prop :=
  match s.rx.st with
  | .hunt => List.replicate s.rx.h.toNat .one <:+ cs
  | .start2 => List.replicate (huntGoal p) .one ++ [.zero] <:+ cs
  | .data => List.replicate (huntGoal p) .one ++ [.zero, .zero] <:+ cs

section
variable {p : Params} {s t : State} {cs : List HalfClass} {ts : Word}

theorem replicate_suffix_of_le {α : Type} (a : α) {m n : Nat} (h : m ≤ n) :
    List.replicate m a <:+ List.replicate n a :=
  ⟨List.replicate (n - m) a, by rw [List.replicate_append_replicate, Nat.sub_add_cancel h]⟩

theorem locking_of_hunt (hst : s.rx.st = .hunt) :
    Locking p s cs ↔ List.replicate s.rx.h.toNat .one <:+ cs := by rw [Locking, hst]

theorem locking_of_start2 (hst : s.rx.st = .start2) :
    Locking p s cs ↔ List.replicate (huntGoal p) .one ++ [.zero] <:+ cs := by rw [Locking, hst]

theorem locking_of_data (hst : s.rx.st = .data) :
    Locking p s cs ↔ List.replicate (huntGoal p) .one ++ [.zero, .zero] <:+ cs := by rw [Locking, hst]

/-- Nothing is known of the halves before a reset to hunting. -/
theorem locking_of_h_zero (hst : s.rx.st = .hunt) (hh : s.rx.h = 0) : Locking p s cs := by
  rw [locking_of_hunt hst, hh]
  exact List.nil_suffix

theorem BackToHunt.locking (h : BackToHunt s t ts) : Locking p t cs :=
  locking_of_h_zero (by rw [h.1]) (by rw [h.1])

section
variable (hs : Listening p s) (hts : ts.toNat < 2 ^ p.capBits) (hl : Locking p s cs)
  (ht : exec (.rxCapture ts) s = .next t)
include hs hts hl ht

/-- R203: a capture in Hunt. -/
theorem Locking.capture_hunt (hst : s.rx.st = .hunt) {one : Bool}
    (hc : classify p (interval s ts) = classOfBit one) : Locking p t (cs ++ [classOfBit one]) := by
  obtain ⟨hi, rfl, hv⟩ := hs
  obtain ⟨hone, hzero⟩ := huntCountsOneHalves s ts hi hts hv hst
  rw [locking_of_hunt hst] at hl
  cases one with
  | true =>
    obtain ⟨t', ht', -, hrx, -, hh⟩ := hone hc
    cases ht.symm.trans ht'
    rw [locking_of_hunt (by rw [hrx, hst]), hh]
    refine (replicate_suffix_of_le _ (min_le_left _ _)).trans ?_
    rw [List.replicate_succ']
    exact List.suffix_append_self_iff.mpr hl
  | false =>
    obtain ⟨t', ht', -, -, hfull, hearly⟩ := hzero hc
    cases ht.symm.trans ht'
    by_cases hle : 2 * s.params.rxPreambleMin ≤ s.rx.h.toNat
    · rw [locking_of_start2 (by rw [hfull hle])]
      exact List.suffix_append_self_iff.mpr ((replicate_suffix_of_le _ hle).trans hl)
    · have hrx := hearly (Nat.not_le.mp hle)
      exact locking_of_h_zero (by rw [hrx, hst]) (by rw [hrx])

/-- R204: a capture in Start2. -/
theorem Locking.capture_start2 (hst : s.rx.st = .start2) {one : Bool}
    (hc : classify p (interval s ts) = classOfBit one) : Locking p t (cs ++ [classOfBit one]) := by
  obtain ⟨hi, rfl, -⟩ := hs
  obtain ⟨hzero, hone⟩ := startBitSecondHalf s ts hi hts hst
  rw [locking_of_start2 hst] at hl
  cases one with
  | true =>
    obtain ⟨t', ht', -, hback⟩ := hone hc
    cases ht.symm.trans ht'
    exact hback.locking
  | false =>
    obtain ⟨t', ht', -, hrx, -⟩ := hzero hc
    cases ht.symm.trans ht'
    rw [locking_of_data (by rw [hrx])]
    have h := (List.suffix_append_self_iff (l₃ := [.zero])).mpr hl
    rwa [List.append_assoc] at h

/-- R213: each capture before Data is entered adds the class of its interval to what the framing state says. -/
theorem Locking.capture (hst : s.rx.st ≠ .data) : Locking p t (cs ++ [classify p (interval s ts)]) := by
  rcases (classify p (interval s ts)).eq_invalid_or with hc | ⟨one, hc⟩
  · obtain ⟨hi, rfl, hv⟩ := hs
    obtain ⟨t', ht', -, hback⟩ := invalidIntervalResetsFraming.2 s ts hi.mem hts hv hc
    cases ht.symm.trans ht'
    exact hback.locking
  · rw [hc]
    cases hst' : s.rx.st with
    | hunt => exact hl.capture_hunt hs hts ht hst' hc
    | start2 => exact hl.capture_start2 hs hts ht hst' hc
    | data => exact absurd hst' hst

end

/-- R213: along captures during which Data is not entered before the last. -/
theorem Locking.captures {tss : List Word} (hs : Listening p s) (hl : Locking p s cs)
    (htss : ∀ ts ∈ tss, ts.toNat < 2 ^ p.capBits)
    (hno : ∀ k u, k < tss.length → execAll ((tss.take k).map .rxCapture) s = .next u → u.rx.st ≠ .data)
    (ht : execAll (tss.map .rxCapture) s = .next t) : Locking p t (cs ++ classesFrom p s.rx.lastTs tss) := by
  induction tss generalizing s cs with
  | nil =>
    cases ht
    rwa [classesFrom, List.append_nil]
  | cons ts rest ih =>
    have hts := htss ts (by simp)
    obtain ⟨u, hu, hus, hlast⟩ := hs.capture hts
    have hul := hl.capture hs hts hu (hno 0 s (by simp) rfl)
    have hrest := fun k v => hno (k + 1) v
    simp only [List.take_succ_cons, List.map_cons, execAll_cons_of_next hu, List.length_cons, Nat.succ_lt_succ_iff]
      at hrest ht
    have h := ih hus hul (fun ts' h' => htss ts' (by simp [h'])) (fun k v hk => hrest k v hk) ht
    rw [List.append_assoc, hlast, interval, hs.params] at h
    exact h

end

/-- Settles O48: in Data, the framing state says that a whole preamble and the start bit came last. -/
theorem lockNeedsWholePreamble : Obligations.LockNeedsWholePreamble := by
  unfold Obligations.LockNeedsWholePreamble
  intro s t tss hi hst hh hv htss hno ht hdata
  have hl : Locking s.params t ([] ++ classesFrom s.params s.rx.lastTs tss) :=
    Locking.captures ⟨hi, rfl, hv⟩ (locking_of_h_zero hst hh) htss hno ht
  obtain ⟨pre, hpre⟩ := (locking_of_data hdata).mp hl
  exact ⟨pre, by rw [List.append_assoc]; exact hpre.symm⟩

end Sys2Proof.Machine
end

section
/-! SUPPORT. A transmitted frame is received as the packet (42_rx_engine.md R214): triples of the receiver that is given
the halves of a frame, part by part. -/

namespace Sys2Proof.Machine

/-! ### The halves of a list of bits, given one after another -/

/-- `d` is the length of a half of the bit `b` (R200). -/
def HalfOf (p : Params) (d : Nat) (b : Bool) : Prop := d < 2 ^ p.capBits ∧ classify p d = classOfBit b

/-- A capture that ends a half of the bit `b` leads from `P` to `Q`. -/
def HearsHalf (p : Params) (P : State → Prop) (b : Bool) (Q : State → Prop) : Prop :=
  ∀ s ts, Listening p s → P s → ts.toNat < 2 ^ p.capBits → classify p (interval s ts) = classOfBit b →
    ∃ t, exec (.rxCapture ts) s = .next t ∧ Q t

/-- Captures that end halves of the bits `bs`, one after another, lead from `P` to `Q`. -/
def Hears (p : Params) (P : State → Prop) : List Bool → (State → Prop) → Prop
  | [], Q => ∀ s, P s → Q s
  | b :: bs, Q => ∃ M, HearsHalf p P b M ∧ Hears p M bs Q

section
variable {p : Params} {P Q M : State → Prop}

theorem HearsHalf.hears {b : Bool} (h : HearsHalf p P b Q) : Hears p P [b] Q := ⟨Q, h, fun _ hq => hq⟩

theorem HearsHalf.weaken {b : Bool} {P' : State → Prop} (h : HearsHalf p P b Q) (hp : ∀ s, P' s → P s) :
    HearsHalf p P' b Q := fun s ts hs hP => h s ts hs (hp s hP)

theorem Hears.weaken {bs : List Bool} {P' : State → Prop} (h : Hears p P bs Q) (hp : ∀ s, P' s → P s) :
    Hears p P' bs Q := by
  cases bs with
  | nil => exact fun s hs => h s (hp s hs)
  | cons b bs =>
    obtain ⟨M, hb, hbs⟩ := h
    exact ⟨M, hb.weaken hp, hbs⟩

theorem Hears.append {bs bs' : List Bool} (h : Hears p P bs M) (h' : Hears p M bs' Q) : Hears p P (bs ++ bs') Q := by
  induction bs generalizing P with
  | nil => exact h'.weaken h
  | cons b bs ih =>
    obtain ⟨N, hb, hbs⟩ := h
    exact ⟨N, hb, ih hbs⟩

theorem hears_flatMap_range {f : Nat → List Bool} {R : Nat → State → Prop} {m : Nat}
    (h : ∀ i < m, Hears p (R i) (f i) (R (i + 1))) : Hears p (R 0) ((List.range m).flatMap f) (R m) := by
  induction m with
  | zero => exact fun _ hs => hs
  | succ m ih =>
    rw [List.range_succ, List.flatMap_append, List.flatMap_singleton]
    exact (ih fun i hi => h i (by omega)).append (h m (by omega))

/-- R202: the edge that comes `d` ticks after the last one measures `d`, across a wrap of the counter too. -/
theorem Listening.interval_edge {s : State} (hs : Listening p s) {d : Nat} (hd : d < 2 ^ p.capBits) :
    interval s (capMod p (s.rx.lastTs.toNat + d)) = d := by
  obtain ⟨hi, rfl, -⟩ := hs
  have hlast := hi.rx.lastTs
  have hcap : s.params.capBits = 16 ∨ s.params.capBits = 32 := by
    have hp := hi.params
    simp only [Params.valid, decide_eq_true_eq] at hp
    omega
  rw [interval, BitVec.toNat_sub, capMod_toNat hi.params]
  rcases hcap with hc | hc <;> rw [hc] at hlast hd ⊢ <;> omega

/-- R211: a triple, run on the timestamps of intervals that are halves of its bits. -/
theorem Hears.run {bs : List Bool} {ds : List Nat} (hd : List.Forall₂ (HalfOf p) ds bs) {s : State}
    (hs : Listening p s) (hP : P s) (h : Hears p P bs Q) :
    ∃ t, execAll ((timestampsFrom p s.rx.lastTs ds).map .rxCapture) s = .next t ∧ Listening p t ∧ Q t := by
  induction hd generalizing P s with
  | nil => exact ⟨s, rfl, hs, h s hP⟩
  | @cons d b ds bs hdb _ ih =>
    obtain ⟨hd, hc⟩ := hdb
    obtain ⟨M, hb, hbs⟩ := h
    have hts := capMod_lt p (s.rx.lastTs.toNat + d)
    obtain ⟨u, hu, hM⟩ := hb s _ hs hP hts (by rw [hs.interval_edge hd, hc])
    obtain ⟨u', hu', hus, hlast⟩ := hs.capture hts
    cases hu.symm.trans hu'
    obtain ⟨t, ht, hts', hQ⟩ := ih hus hM hbs
    refine ⟨t, ?_, hts', hQ⟩
    rw [hlast] at ht
    exact (execAll_cons_of_next hu).trans ht

end

/-! ### Where the receiver stands in a frame -/

/-- R203: in Hunt, with `m` ONE halves or as many as count. -/
def HuntingAt (p : Params) (m : Nat) (s : State) : Prop :=
  s.rx.st = .hunt ∧ s.rx.h.toNat = min m (huntGoal p)

/-- R205: in Data, with the first `j` bytes of the packet in RXB and the top `k` bits of the next shifted in; the byte
is stored with its eighth bit. -/
structure InByte (bytes : List Byte) (j k : Nat) (first : FirstHalf) (s : State) : Prop where
  st : s.rx.st = .data
  first : s.rx.first = first
  bitcnt : s.rx.bitcnt.toNat = k
  acc : s.rx.acc.toNat = (bytes.getD j 0).toNat / 2 ^ (8 - k)
  n : s.rx.n.toNat = j + k / 8
  rxb : ∀ i < j + k / 8, s.mem.read (rxbBase + i) = bytes.getD i 0

/-- Before the first half of byte `j`'s start or separator bit, or of the end bit. -/
def BeforeByte (p : Params) (bytes : List Byte) : Nat → State → Prop
  | 0 => HuntingAt p (huntGoal p)
  | j + 1 => InByte bytes j 8 .none

/-- Before the first half of bit `k` of byte `j`, where bit 0 is the start or separator bit (R150). -/
def BeforeBit (p : Params) (bytes : List Byte) (j : Nat) : Nat → State → Prop
  | 0 => BeforeByte p bytes j
  | k + 1 => InByte bytes j k .none

/-- R206: the packet is in the ready slot. -/
def Received (bytes : List Byte) (s : State) : Prop :=
  s.rx.ready = true ∧ s.rx.readyLen.toNat = bytes.length ∧ s.mem.bytes rxrBase bytes.length = bytes

/-! ### The preamble and the start bit (R203, R204) -/

section
variable {p : Params}

theorem hearsHalf_preamble (m : Nat) : HearsHalf p (HuntingAt p m) true (HuntingAt p (m + 1)) := by
  rintro s ts ⟨hi, rfl, hv⟩ ⟨hst, hh⟩ hts hc
  obtain ⟨t, ht, -, hrx, -, hh'⟩ := (huntCountsOneHalves s ts hi hts hv hst).1 hc
  refine ⟨t, ht, by rw [hrx, hst], ?_⟩
  rw [hh', hh, huntGoal]
  omega

theorem hears_preamble (np : Nat) :
    Hears p (HuntingAt p 0) ((List.range np).flatMap fun _ => [true, true]) (HuntingAt p (2 * np)) :=
  hears_flatMap_range (R := fun i => HuntingAt p (2 * i)) fun i _ =>
    (hearsHalf_preamble (2 * i)).hears.append (hearsHalf_preamble (2 * i + 1)).hears

theorem HuntingAt.full {m : Nat} (hm : huntGoal p ≤ m) {s : State} (h : HuntingAt p m s) :
    HuntingAt p (huntGoal p) s :=
  ⟨h.1, by rw [h.2, min_eq_right hm, min_self]⟩

theorem hears_startBit (bytes : List Byte) :
    Hears p (HuntingAt p (huntGoal p)) [false, false] (InByte bytes 0 0 .none) := by
  refine Hears.append (bs := [false]) (M := fun s => s.rx.st = .start2) (HearsHalf.hears ?_) (HearsHalf.hears ?_)
  · rintro s ts ⟨hi, rfl, hv⟩ ⟨hst, hh⟩ hts hc
    obtain ⟨t, ht, -, -, hfull, -⟩ := (huntCountsOneHalves s ts hi hts hv hst).2 hc
    exact ⟨t, ht, congrArg Rx.st (hfull (by rw [hh, min_self]; rfl))⟩
  · rintro s ts ⟨hi, rfl, -⟩ hst hts hc
    obtain ⟨t, ht, -, hrx, -, -⟩ := (startBitSecondHalf s ts hi hts hst).1 hc
    refine ⟨t, ht, by rw [hrx], by rw [hrx], by rw [hrx]; rfl, ?_, by rw [hrx]; rfl, nofun⟩
    rw [hrx]
    exact (Nat.div_eq_of_lt (bytes.getD 0 0).isLt).symm

/-! ### The bits of a byte (R205) -/

/-- R66: the top `k + 1` bits of a byte are its top `k` bits and the next one. -/
theorem top_bits_succ (x : Byte) {k : Nat} (hk : k < 8) :
    2 * (x.toNat / 2 ^ (8 - k) % 128) + (x.getLsbD (7 - k)).toNat = x.toNat / 2 ^ (8 - (k + 1)) := by
  have hpow : x.toNat / 2 ^ (8 - k) = x.toNat / 2 ^ (7 - k) / 2 := by
    rw [Nat.div_div_eq_div_mul, ← Nat.pow_succ]
    congr 2
    omega
  have hlt : x.toNat / 2 ^ (7 - k) < 256 := (Nat.div_le_self _ _).trans_lt x.isLt
  rw [hpow, BitVec.getLsbD, Nat.toNat_testBit, Nat.succ_sub_succ]
  generalize x.toNat / 2 ^ (7 - k) = q at hlt
  omega

section
variable {bytes : List Byte} {j k : Nat} {b : Bool}

theorem hearsHalf_first (hend : ¬ (k = 8 ∧ b = true)) :
    HearsHalf p (InByte bytes j k .none) b (InByte bytes j k (firstOf b)) := by
  rintro s ts ⟨hi, rfl, -⟩ ⟨hst, hf, hk, hacc, hn, hrxb⟩ hts hc
  have hend' : ¬ (s.rx.first = .none ∧ s.rx.bitcnt = 8 ∧ b = true) := fun ⟨_, h8, hb⟩ =>
    hend ⟨by rw [← hk, h8]; rfl, hb⟩
  obtain ⟨t, ht, -, hfirst, -⟩ := dataHalvesMakeBytes s ts b hi hts hst hc hend'
  obtain ⟨hrx, hmem⟩ := hfirst hf
  refine ⟨t, ht, by rw [hrx, hst], by rw [hrx], by rw [hrx, hk], by rw [hrx, hacc], by rw [hrx, hn], fun i hlt => ?_⟩
  rw [hmem, hrxb i hlt]

/-- R205: the second half of a bit of the byte. -/
theorem hearsHalf_second (hj : j < bytes.length) (hcap : bytes.length ≤ p.rxCapacity) (hk8 : k < 8)
    (hb : b = (bytes.getD j 0).getLsbD (7 - k)) :
    HearsHalf p (InByte bytes j k (firstOf b)) b (InByte bytes j (k + 1) .none) := by
  rintro s ts ⟨hi, rfl, -⟩ ⟨hst, hf, hk, hacc, hn, hrxb⟩ hts hc
  have hend : ¬ (s.rx.first = .none ∧ s.rx.bitcnt = 8 ∧ b = true) := fun ⟨hnone, _⟩ =>
    firstOf_ne_none b (hf.symm.trans hnone)
  have hbits := top_bits_succ (bytes.getD j 0) hk8
  rw [← hb, ← hacc] at hbits
  obtain ⟨t, ht, -, -, -, -, hbit, hbyte, -⟩ := dataHalvesMakeBytes s ts b hi hts hst hc hend
  have hdiv : k / 8 = 0 := Nat.div_eq_of_lt hk8
  by_cases hlt : k < 7
  · obtain ⟨hrx, hbitcnt, hacc', hmem⟩ := hbit hf (by omega)
    have hdiv' : (k + 1) / 8 = k / 8 := by omega
    refine ⟨t, ht, by rw [hrx, hst], by rw [hrx], by rw [hbitcnt, hk], by rw [hacc', hbits], by rw [hrx, hn, hdiv'],
      fun i hlt' => ?_⟩
    rw [hmem, hrxb i (hdiv' ▸ hlt')]
  · obtain rfl : k = 7 := by omega
    have hn' : s.rx.n.toNat = j := hn
    obtain ⟨hrx, hlen, hacc', hread, hmem⟩ := hbyte hf (BitVec.eq_of_toNat_eq hk) (by omega)
    rw [hbits] at hacc'
    refine ⟨t, ht, by rw [hrx, hst], by rw [hrx], by rw [hrx]; rfl, hacc', by rw [hlen, hn'], fun i hlt' => ?_⟩
    rcases Nat.lt_succ_iff_lt_or_eq.mp hlt' with hij | rfl
    · have hne : rxbBase + i ≠ rxStoreAddr s := by
        rw [rxStoreAddr]
        omega
      rw [hmem _ hne, hrxb i hij]
    · rw [← hn', show rxbBase + s.rx.n.toNat = rxStoreAddr s from rfl, hread]
      refine BitVec.eq_of_toNat_eq ?_
      rw [hacc', hn']
      exact Nat.div_one _

/-- R205: the second half of the separator. -/
theorem hearsHalf_separator : HearsHalf p (InByte bytes j 8 .zero) false (InByte bytes (j + 1) 0 .none) := by
  rintro s ts ⟨hi, rfl, -⟩ ⟨hst, hf, hk, hacc, hn, hrxb⟩ hts hc
  obtain ⟨t, ht, -, -, -, hsep, -⟩ := dataHalvesMakeBytes s ts false hi hts hst hc (by simp)
  obtain ⟨hrx, hmem⟩ := hsep hf (BitVec.eq_of_toNat_eq hk)
  refine ⟨t, ht, by rw [hrx, hst], by rw [hrx], by rw [hrx]; rfl, ?_, by rw [hrx, hn], fun i hlt => ?_⟩
  · rw [hrx]
    exact (Nat.div_eq_of_lt (bytes.getD (j + 1) 0).isLt).symm
  · rw [hmem, hrxb i hlt]

/-- R204, R205: the start bit or a separator opens byte `j`. -/
theorem hears_zeroBit (j : Nat) : Hears p (BeforeByte p bytes j) [false, false] (InByte bytes j 0 .none) := by
  cases j with
  | zero => exact hears_startBit bytes
  | succ j => exact (hearsHalf_first (b := false) (by simp)).hears.append (bs := [false]) hearsHalf_separator.hears

theorem hears_dataBit (hj : j < bytes.length) (hcap : bytes.length ≤ p.rxCapacity) (hk : k < 8)
    (hb : b = (bytes.getD j 0).getLsbD (7 - k)) :
    Hears p (InByte bytes j k .none) [b, b] (InByte bytes j (k + 1) .none) :=
  (hearsHalf_first (by omega)).hears.append (bs := [b]) (hearsHalf_second hj hcap hk hb).hears

/-! ### The end bit (R206) -/

theorem InByte.bytes_eq {s : State} (h : InByte bytes j 8 .none s) (hj : j + 1 = bytes.length) :
    s.rx.n.toNat = bytes.length ∧ s.mem.bytes rxbBase bytes.length = bytes := by
  refine ⟨h.n.trans hj, List.ext_getElem (Memory.length_bytes _ _ _) fun i hi hi' => ?_⟩
  have hread := h.rxb i (hj ▸ hi')
  rw [List.getD_eq_getElem _ _ hi'] at hread
  simpa [Memory.bytes] using hread

/-- R206: the first half of the end bit, after a packet with a valid checksum. -/
theorem hearsHalf_end (hj : j + 1 = bytes.length) (h2 : 2 ≤ bytes.length) (hcap : bytes.length ≤ p.rxCapacity)
    (hx : ValidChecksum bytes) : HearsHalf p (InByte bytes j 8 .none) true (Received bytes) := by
  rintro s ts ⟨hi, rfl, -⟩ h hts hc
  obtain ⟨hn, hbytes⟩ := h.bytes_eq hj
  obtain ⟨t, ht, -, -, -, -, -, -, -, -, -, haccept, -⟩ :=
    packetEndAcceptsValidPackets s ts hi hts h.st h.first (BitVec.eq_of_toNat_eq h.bitcnt) hc
  rw [hn, hbytes] at haccept
  obtain ⟨hready, hlen, hrxr, -⟩ := haccept ⟨h2, hx⟩
  have hcap32 := rxCapacity_le_packetRegion hi.params
  refine ⟨t, ht, hready, by rw [hlen, hn], ?_⟩
  exact (Memory.bytes_congr fun i hlt => hrxr i (by omega)).trans hbytes

end

end

/-! ### The frame (R150) -/

section
variable {bytes : List Byte}

theorem map_slotBit_preamble (np : Nat) :
    ((List.range np).flatMap fun i => bothHalves .preamble 0 i).map (slotBit bytes) =
      (List.range np).flatMap fun _ => [true, true] := by
  rw [List.map_flatMap]
  rfl

/-- R151: the start bit or separator of a byte. -/
theorem map_slotBit_zeroBit {j : Nat} (hj : j < bytes.length) (hlen : bytes.length ≤ 32) :
    (bothHalves .data j 0).map (slotBit bytes) = [false, false] := by
  have hjmod : (BitVec.ofNat 8 j).toNat = j := Nat.mod_eq_of_lt (by omega)
  simp [bothHalves, slotBit, hjmod, hj.ne]

/-- R151: the bits of a byte, the most significant first. -/
theorem map_slotBit_dataBit {j k : Nat} (hj : j < bytes.length) (hlen : bytes.length ≤ 32) (hk : k < 8) :
    (bothHalves .data j (k + 1)).map (slotBit bytes) =
      [(bytes.getD j 0).getLsbD (7 - k), (bytes.getD j 0).getLsbD (7 - k)] := by
  have hjmod : (BitVec.ofNat 8 j).toNat = j := Nat.mod_eq_of_lt (by omega)
  have hkmod : (BitVec.ofNat 8 (k + 1)).toNat = k + 1 := Nat.mod_eq_of_lt (by omega)
  have hne : BitVec.ofNat 8 (k + 1) ≠ 0 := fun h => by simp [h] at hkmod
  simp only [bothHalves, slotBit, List.map_cons, List.map_nil, hne, if_false, hjmod, hkmod, Nat.succ_sub_succ]

theorem slotBit_endBit (hlen : bytes.length ≤ 32) : slotBit bytes (slotAt .data bytes.length 0 false) = true := by
  have hmod : (BitVec.ofNat 8 bytes.length).toNat = bytes.length := Nat.mod_eq_of_lt (by omega)
  simp [slotBit, slotAt, hmod]

theorem frameSlots_dropLast (np n : Nat) :
    (frameSlots np n false).dropLast = ((List.range np).flatMap fun i => bothHalves .preamble 0 i) ++
      (List.range n).flatMap byteSlots ++ [slotAt .data n 0 false] := by
  have hend : bothHalves .data n 0 = [slotAt .data n 0 false] ++ [slotAt .data n 0 true] := rfl
  have hnone : cutoutSlotsOf false = [] := rfl
  rw [frameSlots_eq, hend, hnone, List.append_nil, ← List.append_assoc, List.dropLast_concat]

variable {p : Params} (hcap : bytes.length ≤ p.rxCapacity) (hlen : bytes.length ≤ 32)
include hcap hlen

theorem hears_byteSlots {j : Nat} (hj : j < bytes.length) :
    Hears p (BeforeByte p bytes j) ((byteSlots j).map (slotBit bytes)) (BeforeByte p bytes (j + 1)) := by
  rw [byteSlots, List.map_flatMap]
  refine hears_flatMap_range (R := BeforeBit p bytes j) fun k hk => ?_
  cases k with
  | zero =>
    rw [map_slotBit_zeroBit hj hlen]
    exact hears_zeroBit j
  | succ k =>
    have hk8 : k < 8 := by omega
    rw [map_slotBit_dataBit hj hlen hk8]
    exact hears_dataBit hj hcap hk8 rfl

/-- R214: a whole frame, up to the first half of its end bit. -/
theorem hears_frame {np : Nat} (hnp : p.rxPreambleMin ≤ np) (h2 : 2 ≤ bytes.length) (hx : ValidChecksum bytes) :
    Hears p (HuntingAt p 0) ((frameSlots np bytes.length false).dropLast.map (slotBit bytes)) (Received bytes) := by
  have hfull : huntGoal p ≤ 2 * np := Nat.mul_le_mul_left 2 hnp
  have hbytes : Hears p (BeforeByte p bytes 0)
      ((List.range bytes.length).flatMap fun j => (byteSlots j).map (slotBit bytes))
      (BeforeByte p bytes bytes.length) := hears_flatMap_range fun j hj => hears_byteSlots hcap hlen hj
  obtain ⟨m, hm⟩ := Nat.exists_eq_add_of_le' (show 1 ≤ bytes.length by omega)
  have hend : Hears p (BeforeByte p bytes bytes.length) [true] (Received bytes) := by
    rw [hm]
    exact (hearsHalf_end hm.symm h2 hcap hx).hears
  rw [frameSlots_dropLast, List.map_append, List.map_append, map_slotBit_preamble, List.map_flatMap, List.map_singleton,
    slotBit_endBit hlen]
  exact ((hears_preamble np).append (hbytes.weaken fun _ h => h.full hfull)).append hend

end

/-! ### The statement -/

/-- The intervals of a list of slots, slot by slot. -/
theorem forall₂_halfOf {p : Params} {ds : List Nat} {slots : List Cursor} {bit : Cursor → Bool}
    (hlen : ds.length + 1 = slots.length)
    (h : ∀ (k d : Nat) (c : Cursor), ds[k]? = some d → slots[k]? = some c →
      d < 2 ^ p.capBits ∧ classify p d = classOfBit (bit c)) :
    List.Forall₂ (HalfOf p) ds (slots.dropLast.map bit) := by
  rw [List.forall₂_map_right_iff]
  refine List.forall₂_of_length_eq_of_get (by rw [List.length_dropLast]; omega) fun i hi hi' => ?_
  refine h i _ _ (List.getElem?_eq_getElem hi) ?_
  have hlt : i < slots.length := by omega
  rw [List.get_eq_getElem, List.getElem_dropLast]
  exact List.getElem?_eq_getElem hlt

/-- Settles O49: the frame's triple, run from Hunt with `h = 0`, and RX_TAKE of what it leaves. -/
theorem frameRoundTrip : Obligations.FrameRoundTrip := by
  unfold Obligations.FrameRoundTrip
  intro s bytes np ds hi hst hh hv h2 hcap hx hnp _ hlen hds
  have h32 : bytes.length ≤ 32 := hcap.trans (rxCapacity_le_packetRegion hi.params)
  have hhunting : HuntingAt s.params 0 s := ⟨hst, by rw [hh, Nat.zero_min]; rfl⟩
  obtain ⟨t, ht, ⟨hit, -⟩, hready, hreadyLen, hrxr⟩ :=
    (hears_frame hcap h32 hnp h2 hx).run (forall₂_halfOf hlen hds) ⟨hi, rfl, hv⟩ hhunting
  obtain ⟨u, hu, -, -, -, -, htake, -⟩ := rxTakeReturnsPacket t hit
  obtain ⟨w0, ws, hresp, hw0, -, hpacked, -⟩ := htake hready
  rw [hreadyLen] at hw0 hpacked
  refine ⟨t, u, ws, ht, hready, hreadyLen, hrxr, hu, ?_, hpacked.trans hrxr⟩
  rw [hresp]
  congr 1
  refine BitVec.eq_of_toNat_eq ?_
  rw [hw0, BitVec.toNat_ofNat, Nat.mod_eq_of_lt (by omega)]

end Sys2Proof.Machine
end

section
/-! SUPPORT. The threshold, the bytes received in a cutout and the snapshot taken from them (43_bidi.md R250-R254). -/

namespace Sys2Proof.Machine

/-! ### The threshold (R250, R251) -/

/-- Settles O34: a value of DAC_BITS bits changes one field, which the register 0x0C and DAC_OUT read. -/
theorem thresholdSetAndDriven : Obligations.ThresholdSetAndDriven := by
  unfold Obligations.ThresholdSetAndDriven
  refine fun s v => ⟨fun hv => ?_, fun hv => ?_⟩
  · exact ⟨_, if_neg (by omega), rfl, rfl, rfl, rfl, rfl, rfl, rfl, rfl, rfl, rfl, fun _ => rfl, rfl⟩
  · exact ⟨_, if_pos hv, rfl, rfl, rfl, rfl, rfl, fun _ => rfl, rfl, rfl, rfl⟩

/-! ### A received byte (R252) -/

section
variable {s : State} {b : Byte}

theorem execBidiByte_of_none (h : bidiStoreAddr s = none) : execBidiByte b s = .next (finish s) := by
  simp only [execBidiByte, h]

theorem execBidiByte_of_some {a : Nat} (h : bidiStoreAddr s = some a) : execBidiByte b s =
    .next (finish { s with mem := s.mem.write a b, bidi := countByte s.tx.pins.rcCh s.bidi }) := by
  simp only [execBidiByte, h]

theorem bidiStoreAddr_ch1 (hch : s.tx.pins.rcCh = .ch1) (hn : s.bidi.n1.toNat < ch1Bytes) :
    bidiStoreAddr s = some (brawBase + s.bidi.n1.toNat) := by
  simp only [bidiStoreAddr, hch, if_pos hn]

theorem bidiStoreAddr_ch2 (hch : s.tx.pins.rcCh = .ch2) (hn : s.bidi.n2.toNat < ch2Bytes) :
    bidiStoreAddr s = some (brawBase + ch1Bytes + s.bidi.n2.toNat) := by
  simp only [bidiStoreAddr, hch, if_pos hn]

/-- R252: no channel armed, or the armed one full. -/
theorem bidiStoreAddr_none (h : s.tx.pins.rcCh = .none ∨ (s.tx.pins.rcCh = .ch1 ∧ ch1Bytes ≤ s.bidi.n1.toNat) ∨
    (s.tx.pins.rcCh = .ch2 ∧ ch2Bytes ≤ s.bidi.n2.toNat)) : bidiStoreAddr s = none := by
  rcases h with hch | ⟨hch, hn⟩ | ⟨hch, hn⟩
  · simp only [bidiStoreAddr, hch]
  · simp only [bidiStoreAddr, hch, if_neg (Nat.not_lt.mpr hn)]
  · simp only [bidiStoreAddr, hch, if_neg (Nat.not_lt.mpr hn)]

theorem mapped_bidiStoreAddr {a : Nat} (h : bidiStoreAddr s = some a) : mapped a = true := by
  obtain ⟨-, hlt⟩ := bidiStoreAddr_range h
  exact decide_eq_true (Nat.le_of_lt_succ (hlt.trans_le (by decide)))

end

/-- Settles O35: the byte goes to `bidiStoreAddr`, which is none exactly when no armed channel has room. -/
theorem bidiByteStoresOrDrops : Obligations.BidiByteStoresOrDrops := by
  unfold Obligations.BidiByteStoresOrDrops
  intro s b hw
  cases haddr : bidiStoreAddr s with
  | none =>
    refine ⟨_, execBidiByte_of_none haddr, nofun, fun _ => ⟨fun _ => rfl, rfl⟩, fun hch hn => ?_, fun hch hn => ?_,
      fun _ => rfl, rfl, rfl, rfl, rfl, rfl, rfl, rfl⟩
    · cases haddr.symm.trans (bidiStoreAddr_ch1 hch hn)
    · cases haddr.symm.trans (bidiStoreAddr_ch2 hch hn)
  | some a =>
    refine ⟨_, execBidiByte_of_some haddr, ?_, nofun, fun hch hn => ?_, fun hch hn => ?_, fun hdrop => ?_,
      rfl, rfl, rfl, rfl, rfl, rfl, rfl⟩
    · rintro _ ⟨⟩
      exact ⟨(Memory.read_write hw _ _ _).trans (if_pos ⟨rfl, mapped_bidiStoreAddr haddr⟩),
        fun _ hne => Memory.read_write_of_ne hw _ hne⟩
    · refine ⟨haddr.symm.trans (bidiStoreAddr_ch1 hch hn), ?_, ?_⟩
      · simp only [finish_bidi, hch, countByte, bitcnt_succ_toNat (hn.trans (by decide))]
      · simp only [finish_bidi, hch, countByte]
    · refine ⟨haddr.symm.trans (bidiStoreAddr_ch2 hch hn), ?_, ?_⟩
      · simp only [finish_bidi, hch, countByte, bitcnt_succ_toNat (hn.trans (by decide))]
      · simp only [finish_bidi, hch, countByte]
    · cases haddr.symm.trans (bidiStoreAddr_none hdrop)

/-! ### The snapshot (R254) -/

theorem bidiTakeHeader_toNat (s : State) :
    (bidiTakeHeader s).toNat = s.bidi.sn2.toNat * 2 ^ 12 + s.bidi.sn1.toNat * 2 ^ 8 + 1 := by
  simp only [bidiTakeHeader, toNat_append_eq_add, BitVec.toNat_ofNat]
  omega

theorem execBidiTake_of_not_ready {s : State} (hr : s.bidi.ready = false) :
    execBidiTake s = .next (respond [0, 0, 0] s) := by
  simp [execBidiTake, hr]

theorem execBidiTake_of_ready {s : State} (hr : s.bidi.ready = true) :
    execBidiTake s = .next (respond (bidiTakeHeader s :: packBytes (s.mem.bytes bsnapBase bidiRegion))
      { s with bidi := { s.bidi with ready := false } }) := if_pos hr

/-- R102: eight bytes fill two words and leave no padding. -/
theorem packBytes_snapshot (m : Memory) :
    ∃ w1 w2, packBytes (m.bytes bsnapBase bidiRegion) = [w1, w2] ∧
      unpackBytes [w1, w2] = m.bytes bsnapBase bidiRegion := by
  have hlen := m.length_bytes bsnapBase bidiRegion
  obtain ⟨w1, w2, hpack⟩ : ∃ w1 w2, packBytes (m.bytes bsnapBase bidiRegion) = [w1, w2] :=
    List.length_eq_two.mp (by rw [packBytes_length, hlen]; rfl)
  have hunpack := unpackBytes_packBytes (m.bytes bsnapBase bidiRegion)
  rw [hlen, hpack] at hunpack
  exact ⟨w1, w2, hpack, hunpack.trans (List.append_nil _)⟩

/-- Settles O36: the snapshot is packed as R102 says, and what is left has nothing ready. -/
theorem bidiTakeReturnsSnapshot : Obligations.BidiTakeReturnsSnapshot := by
  unfold Obligations.BidiTakeReturnsSnapshot
  intro s
  cases hr : s.bidi.ready with
  | false =>
    have hbidi : s.bidi = { s.bidi with ready := false } := by rw [← hr]
    exact ⟨_, execBidiTake_of_not_ready hr, hbidi, rfl, rfl, fun _ => rfl, nofun, fun _ => rfl, rfl, rfl, rfl, rfl, rfl,
      rfl, _, execBidiTake_of_not_ready hr, rfl⟩
  | true =>
    obtain ⟨w1, w2, hpack, hunpack⟩ := packBytes_snapshot s.mem
    exact ⟨_, execBidiTake_of_ready hr, rfl, rfl, rfl, nofun,
      fun _ => ⟨_, w1, w2, congrArg (bidiTakeHeader s :: ·) hpack, bidiTakeHeader_toNat s, hunpack⟩,
      fun _ => rfl, rfl, rfl, rfl, rfl, rfl, rfl, _, execBidiTake_of_not_ready rfl, rfl⟩

end Sys2Proof.Machine
end

section
/-! SUPPORT. The dissector of the return channel (43_bidi.md R257-R260): what one pass of the walk over channel 2 gives
for each kind of first byte, the symbols of a datagram and its number, and the entries of channel 1. -/

namespace Sys2Proof.Machine

/-! ### The symbols of a datagram -/

section
variable {p : Params} {bs : List Byte} {l : Nat} (hl : l ≤ bs.length)
include hl

theorem take_eq_map_getD : bs.take l = (List.range l).map fun k => bs.getD k 0 := by
  refine List.ext_getElem (by simpa using hl) fun k _ hk => ?_
  have hlt : k < bs.length := by simp at hk; omega
  simp [hlt]

theorem allData_take_eq_some {vs : Nat → BitVec 6} (h : ∀ k < l, rcDecode p (bs.getD k 0) = .data (vs k)) :
    allData p (bs.take l) = some ((List.range l).map vs) := by
  rw [allData_eq_some, take_eq_map_getD hl, List.map_map, List.map_map]
  exact List.map_congr_left fun k hk => h k (List.mem_range.mp hk)

theorem allData_take_eq_none (h : ∃ k < l, ∀ w, rcDecode p (bs.getD k 0) ≠ .data w) :
    allData p (bs.take l) = none := by
  obtain ⟨k, hk, hne⟩ := h
  refine Option.eq_none_iff_forall_ne_some.mpr fun ws hws => ?_
  rw [allData_eq_some, take_eq_map_getD hl, List.map_map] at hws
  have hmem : rcDecode p (bs.getD k 0) ∈ ws.map Symbol.data := by
    rw [← hws]
    exact List.mem_map.mpr ⟨k, List.mem_range.mpr hk, rfl⟩
  obtain ⟨w, -, hw⟩ := List.mem_map.mp hmem
  exact hne w hw.symm

end

/-! ### The number of a datagram (R260) -/

/-- R260: symbol `k` of `l` stands at weight `64 ^ (l - 1 - k)`. -/
theorem joinSymbols_map_range (l : Nat) (vs : Nat → BitVec 6) :
    joinSymbols ((List.range l).map vs) = ((List.range l).map fun k => (vs k).toNat * 64 ^ (l - 1 - k)).sum := by
  induction l generalizing vs with
  | zero => rfl
  | succ l ih =>
    have hexp : ∀ k, l - 1 - k = l - (k + 1) := by omega
    rw [List.range_succ_eq_map, List.map_cons, List.map_map, joinSymbols_cons, ih]
    simp [Function.comp_def, hexp]

/-- R260: the identifier is the top four of the bits of a datagram. -/
theorem identifier_eq_joinSymbols_div (v : BitVec 6) (vs : List (BitVec 6)) :
    (v.extractLsb' 2 4).toNat = joinSymbols (v :: vs) / 2 ^ (6 * (vs.length + 1) - 4) := by
  have hpow : 2 ^ (6 * (vs.length + 1) - 4) = 64 ^ vs.length * 4 := by
    rw [show 6 * (vs.length + 1) - 4 = 6 * vs.length + 2 by omega, Nat.pow_add, Nat.pow_mul]
  have hsym : joinSymbols (v :: vs) / 64 ^ vs.length = v.toNat := by
    rw [joinSymbols_cons, Nat.mul_comm, Nat.mul_add_div (Nat.pow_pos (by decide)), Nat.div_eq_of_lt (joinSymbols_lt vs),
      Nat.add_zero]
  rw [hpow, ← Nat.div_div_eq_div_mul, hsym, BitVec.extractLsb'_toNat, Nat.shiftRight_eq_div_pow]
  have := v.isLt
  omega

/-- R260: identifier and payload, one behind the other, are the number of the datagram. -/
theorem identifier_payload_join {l : Nat} (hl : 1 ≤ l) (vs : Nat → BitVec 6) :
    ((vs 0).extractLsb' 2 4).toNat * 2 ^ (6 * l - 4) + joinSymbols ((List.range l).map vs) % 2 ^ (6 * l - 4) =
      joinSymbols ((List.range l).map vs) := by
  obtain ⟨m, rfl⟩ := Nat.exists_eq_add_of_le' hl
  have hid := identifier_eq_joinSymbols_div (vs 0) ((List.range m).map (vs ∘ Nat.succ))
  rw [List.length_map, List.length_range, ← List.map_map, ← List.map_cons, ← List.range_succ_eq_map] at hid
  rw [hid]
  exact Nat.div_add_mod' _ _

/-! ### One pass of the walk over channel 2 (R260) -/

section
variable {p : Params} {b : Byte} {bs : List Byte} {n : Nat}

theorem dissect2_cons_invalid (hb : rcDecode p b = .invalid) : dissect2 p (b :: bs) (n + 1) = dissect2 p bs n := by
  simp only [dissect2, List.take_succ_cons, dissectWalk, hb]

theorem dissect2_cons_special {k : Special} (hb : specialOf (rcDecode p b) = some k) :
    dissect2 p (b :: bs) (n + 1) = .special k :: dissect2 p bs n := by
  simp only [dissect2, List.take_succ_cons, dissectWalk]
  cases hs : rcDecode p b with
  | ack | nack | busy =>
    rw [hs] at hb
    cases hb
    rfl
  | data | invalid =>
    rw [hs] at hb
    cases hb

section
variable {v : BitVec 6} (hb : rcDecode p b = .data v)
include hb

theorem dissect2_cons_undefined (hid : dgSymsOf p (v.extractLsb' 2 4) = none) :
    dissect2 p (b :: bs) (n + 1) = dissect2 p bs n := by
  simp only [dissect2, List.take_succ_cons, dissectWalk, hb, hid]

variable {l : Nat} (hid : dgSymsOf p (v.extractLsb' 2 4) = some l)
include hid

theorem dissect2_cons_cutOff (hl : n + 1 < l) : dissect2 p (b :: bs) (n + 1) = [] := by
  have hshort : (b :: bs.take n).length < l := by simp; omega
  simp only [dissect2, List.take_succ_cons, dissectWalk, hb, hid, if_pos hshort]

/-- R260: a datagram that is not cut off is an entry when all its symbols are data, and is passed over whole. -/
theorem dissect2_cons_datagram (hp : p.valid = true) (hn : n ≤ bs.length) (hl : l ≤ n + 1) :
    dissect2 p (b :: bs) (n + 1) =
      (allData p ((b :: bs).take l)).toList.map
          (fun vs => .dg 2 (v.extractLsb' 2 4) (joinSymbols vs % 2 ^ (6 * l - 4))) ++
        dissect2 p ((b :: bs).drop l) (n + 1 - l) := by
  obtain ⟨hl2, -⟩ := dgSymsOf_range hp hid
  have hwhole : ¬ (b :: bs.take n).length < l := by simp; omega
  have htake : (b :: bs.take n).take l = (b :: bs).take l := by
    rw [← List.take_succ_cons, List.take_take, Nat.min_eq_left hl]
  have hrest : dissectWalk p n ((b :: bs.take n).drop l) = dissect2 p ((b :: bs).drop l) (n + 1 - l) := by
    rw [← List.take_succ_cons, List.drop_take]
    exact dissectWalk_fuel hp _ _ _ (by simp; omega) (by simp)
  simp only [dissect2, List.take_succ_cons, dissectWalk, hb, hid, if_neg hwhole, htake]
  rw [hrest]
  cases allData p ((b :: bs).take l) <;> rfl

end
end

/-- Settles O37: one lemma for each kind of first byte; a whole datagram's number is the sum of its weighted symbols. -/
theorem dissectChannelTwo : Obligations.DissectChannelTwo := by
  unfold Obligations.DissectChannelTwo
  intro p b bs n hp hn
  refine ⟨rfl, dissect2_cons_invalid, fun _ => dissect2_cons_special, fun _ => dissect2_cons_undefined,
    fun _ _ hb => dissect2_cons_cutOff hb, fun v l vs hb hid hl hdata => ?whole, fun v l hb hid hl hbad => ?broken⟩
  case whole =>
    obtain ⟨hl2, -⟩ := dgSymsOf_range hp hid
    have hall := allData_take_eq_some (by simp; omega) hdata
    obtain rfl : v = vs 0 := Symbol.data.inj (hb.symm.trans (hdata 0 (by omega)))
    refine ⟨_, Nat.mod_lt _ (by positivity), ?_, (dissect2_cons_datagram hb hid hp hn hl).trans (by rw [hall]; rfl)⟩
    rw [identifier_payload_join (by omega), joinSymbols_map_range]
  case broken =>
    rw [dissect2_cons_datagram hb hid hp hn hl, allData_take_eq_none (by simp; omega) hbad]
    rfl

/-! ### The entries of channel 1 (R258) -/

section
variable (p : Params)

theorem specialEntries_eq_flatMap (bs : List Byte) :
    specialEntries p bs = (bs.flatMap fun b => (specialOf (rcDecode p b)).toList).map .special := by
  simp only [specialEntries, List.filterMap_eq_flatMap_toList, List.map_flatMap, Option.toList_map]

theorem dissect1_of_data {x y : Byte} {v w : BitVec 6} (hx : rcDecode p x = .data v) (hy : rcDecode p y = .data w) :
    dissect1 p [x, y] 2 = [.dg 1 ((v ++ w).extractLsb' 8 4) ((v ++ w).extractLsb' 0 8).toNat] := by
  simp [dissect1, hx, hy]

theorem dissect1_of_not_data {x y : Byte} (h : ∀ v w, ¬ (rcDecode p x = .data v ∧ rcDecode p y = .data w)) :
    dissect1 p [x, y] 2 = specialEntries p [x, y] := by
  rw [dissect1, if_pos rfl]
  split
  · exact absurd ⟨‹_›, ‹_›⟩ (h _ _)
  · rfl

theorem dissect1_of_ne_two {n : Nat} (hn : n ≠ 2) (c : List Byte) : dissect1 p c n = specialEntries p (c.take n) :=
  if_neg hn

end

/-- R258: a datagram of 12 bits is its identifier and, behind it, eight bits of payload. -/
theorem identifier_payload_of_pair (v w : BitVec 6) :
    ((v ++ w).extractLsb' 8 4).toNat * 256 + ((v ++ w).extractLsb' 0 8).toNat = v.toNat * 64 + w.toNat := by
  have hv := v.isLt
  have hw := w.isLt
  simp only [BitVec.extractLsb'_toNat, toNat_append_eq_add, Nat.shiftRight_eq_div_pow]
  omega

theorem specialOf_eq_some {c : Symbol} {k : Special} : specialOf c = some k ↔
    (c = .ack ∧ k = .ack) ∨ (c = .nack ∧ k = .nack) ∨ (c = .busy ∧ k = .busy) := by
  cases c <;> simp [specialOf, eq_comm]

/-- Settles O38: two data symbols pair up; otherwise the entries are the special symbols. -/
theorem dissectChannelOne : Obligations.DissectChannelOne := by
  unfold Obligations.DissectChannelOne
  refine fun p x y => ⟨fun v w hx hy => ?pair, fun h => ?other, ?one, ?none, fun k => specialOf_eq_some⟩
  case pair => exact ⟨_, _, dissect1_of_data p hx hy, identifier_payload_of_pair v w, BitVec.isLt _⟩
  case other => simp [dissect1_of_not_data p h, specialEntries_eq_flatMap]
  case one => simp [dissect1_of_ne_two, specialEntries_eq_flatMap]
  case none => simp [dissect1_of_ne_two, specialEntries_eq_flatMap]

end Sys2Proof.Machine
end

section
/-! SUPPORT. The zero-bit override (44_zero_bit_override.md R302-R305): the setters, and how far a step of TX_UPDATE
depends on the override's values. -/

namespace Sys2Proof.Machine

/-! ### The setters (R302, R303) -/

/-- Settles O30: each setter writes one field of the override, which the registers 0x08-0x0B read. -/
theorem overrideSettersWrite : Obligations.OverrideSettersWrite := by
  unfold Obligations.OverrideSettersWrite
  refine fun s => ⟨fun mask => ?_, fun sel delta => ?_⟩
  · exact ⟨_, rfl, rfl, rfl, rfl, rfl, rfl, rfl, rfl, rfl, rfl, fun _ => rfl, rfl⟩
  · cases sel with
    | p => exact ⟨_, rfl, rfl, fun _ => ⟨rfl, rfl⟩, nofun, rfl, rfl, rfl, rfl, rfl, rfl, fun _ => rfl, rfl⟩
    | n => exact ⟨_, rfl, rfl, nofun, fun _ => ⟨rfl, rfl⟩, rfl, rfl, rfl, rfl, rfl, rfl, fun _ => rfl, rfl⟩

/-! ### A slot's length under another override (R300, R304) -/

/-- R304: every "0" bit of the active packet's bytes stands at a position that the mask does not cover. -/
def MaskSparesZeros (s : State) : Prop :=
  ∀ j k : Byte, j.toNat < s.tx.actLen.toNat → k.toNat ≤ 8 → bitval s j k = .ok false →
    9 * j.toNat + k.toNat < 64 → s.ovr.mask.getLsbD (9 * j.toNat + k.toNat) = false

section
variable {s : State} {c : Cursor} {o : Ovr}

/-- R153: the override enters a slot's length only through the adjustment of a Data slot's bit. -/
theorem dur_setOvr (h : ∀ b, c.phase = .data → bitval s c.byteIdx c.bitIdx = .ok b →
      ovrAdjust { s with ovr := o } b (bitPosition c.byteIdx c.bitIdx) c.half =
        ovrAdjust s b (bitPosition c.byteIdx c.bitIdx) c.half) :
    dur { s with ovr := o } c = dur s c := by
  by_cases hph : c.phase = .data
  · have hv : bitval { s with ovr := o } c.byteIdx c.bitIdx = bitval s c.byteIdx c.bitIdx := rfl
    cases hb : bitval s c.byteIdx c.bitIdx with
    | error f => simp only [dur, hph, hv, hb]
    | ok b => rw [dur_of_data hph (hv.trans hb), dur_of_data hph hb, h b hph hb]
  · obtain ⟨ph, j, k, half⟩ := c
    cases ph with
    | data => exact absurd rfl hph
    | _ => rfl

/-- R304: slots outside the packet's bytes are never adjusted; the end bit is a "1". -/
theorem dur_setOvr_of_outside_bytes (h : c.phase ≠ .data ∨ (c.byteIdx = s.tx.actLen ∧ c.bitIdx = 0)) :
    dur { s with ovr := o } c = dur s c := by
  refine dur_setOvr fun b hph hb => ?_
  obtain ⟨hj, hk⟩ := h.resolve_left (not_not_intro hph)
  rw [hk, bitval_zero, decide_eq_true hj] at hb
  obtain rfl := Except.ok.inj hb
  rw [ovrAdjust_one, ovrAdjust_one]

/-- R304: when the mask covers no "0" bit of the packet, the deltas do not enter the length of any slot of the frame. -/
theorem MaskSparesZeros.dur_eq (hm : MaskSparesZeros s) (ho : o.mask = s.ovr.mask)
    (hc : CursorOk s.tx.cfg s.tx.actLen c) : dur { s with ovr := o } c = dur s c := by
  by_cases hout : c.phase ≠ .data ∨ (c.byteIdx = s.tx.actLen ∧ c.bitIdx = 0)
  · exact dur_setOvr_of_outside_bytes hout
  refine dur_setOvr fun b hph hb => ?_
  cases b with
  | true => rw [ovrAdjust_one, ovrAdjust_one]
  | false =>
    simp only [CursorOk, hph] at hc
    obtain ⟨hj, hk, hend⟩ := hc
    have hne : c.byteIdx.toNat ≠ s.tx.actLen.toNat := fun e =>
      have hj := BitVec.eq_of_toNat_eq e
      hout (.inr ⟨hj, hend hj⟩)
    have hun : 64 ≤ bitPosition c.byteIdx c.bitIdx ∨
        s.ovr.mask.getLsbD (bitPosition c.byteIdx c.bitIdx) = false :=
      (Nat.lt_or_ge _ 64).symm.imp_right (hm _ _ (by omega) hk hb)
    rw [ovrAdjust_unmasked hun, ovrAdjust_unmasked (s := { s with ovr := o }) (ho ▸ hun)]

end

/-! ### A step of TX_UPDATE under another override (R304) -/

/-- R154: no output of a slot reads the override. -/
theorem emitted_setOvr (s : State) (o : Ovr) : emitted { s with ovr := o } = { emitted s with ovr := o } := by
  unfold emitted emit
  cases s.tx.cursor.phase <;> rfl

theorem Advances.emitAndAdvance_eq {s u : State} {r : Int} (ha : Advances s u r) (hi : Inv s)
    (hr : s.tx.run = .running) : emitAndAdvance s = (u, .ok r) := by
  obtain ⟨u', r', he, ha'⟩ := emitAndAdvance_advances hi hr
  obtain ⟨rfl, rfl⟩ := ha.unique ha'
  exact he

/-- R162: the override is read for the length of the next slot alone. -/
theorem Advances.setOvr {s u : State} {r : Int} {o : Ovr} (ha : Advances s u r)
    (hd : ∀ c, nextSlot s.tx.cfg s.tx.actLen s.tx.cursor = some c → dur { s with ovr := o } c = dur s c) :
    Advances { s with ovr := o } { u with ovr := o } r := by
  cases ha with
  | halt hn hs =>
    have ha := Advances.halt (s := { s with ovr := o }) hn hs
    rwa [emitted_setOvr] at ha
  | latch hn hs =>
    have ha := Advances.latch (s := { s with ovr := o }) hn hs
    rwa [emitted_setOvr] at ha
  | @move c r hn hdur =>
    have ha := Advances.move (s := { s with ovr := o }) hn ((hd c hn).trans hdur)
    rwa [emitted_setOvr] at ha

/-- R162, R169: an override that leaves the length of the next slot as it is leaves the whole step as it is. -/
theorem execTxUpdate_setOvr {s t : State} {o : Ovr} (hi : Inv s)
    (hd : s.tx.run = .running → ∀ c, nextSlot s.tx.cfg s.tx.actLen s.tx.cursor = some c →
      dur { s with ovr := o } c = dur s c)
    (ht : execTxUpdate s = .next t) : execTxUpdate { s with ovr := o } = .next { t with ovr := o } := by
  rcases execTxUpdate_next ht with ⟨hr, rfl⟩ | ⟨hr, rfl⟩ | ⟨hr, rfl⟩ | ⟨hr, u, r, he, hu⟩
  case inr.inr.inr =>
    obtain ⟨u', r', he', ha⟩ := emitAndAdvance_advances hi hr
    obtain ⟨rfl, h⟩ := Prod.mk.inj (he.symm.trans he')
    obtain rfl := Except.ok.inj h
    have heo := (ha.setOvr (hd hr)).emitAndAdvance_eq (inv_setOvr hi o) hr
    rcases hu with ⟨hrange, rfl⟩ | ⟨hrange, rfl⟩
    all_goals
      simp only [execTxUpdate, hr, heo, hrange]
      rfl
  all_goals
    simp only [execTxUpdate, hr]
    rfl

/-- R24: the slot after a Running engine's cursor is a slot of the frame. -/
theorem Inv.nextSlot_cursorOk {s : State} (hi : Inv s) (hr : s.tx.run = .running) {c : Cursor}
    (hn : nextSlot s.tx.cfg s.tx.actLen s.tx.cursor = some c) : CursorOk s.tx.cfg s.tx.actLen c :=
  nextSlot_ok (hi.tx.actLen.trans (pktCapacity_le_packetRegion hi.params)) (hi.cursorOk hr) hn

/-- Settles O32: only the adjustment reads the deltas, and it is 0 for every slot that can come next. -/
theorem overrideNeverTouchesOnes : Obligations.OverrideNeverTouchesOnes := by
  unfold Obligations.OverrideNeverTouchesOnes
  refine ⟨fun _ => ovrAdjust_one, fun _ _ _ => dur_setOvr_of_outside_bytes, ?_⟩
  intro s t dP dN hi (hm : MaskSparesZeros s) ht
  have hd : s.tx.run = .running → ∀ c, nextSlot s.tx.cfg s.tx.actLen s.tx.cursor = some c →
      dur { s with ovr := { s.ovr with dP := dP, dN := dN } } c = dur s c :=
    fun hr _ hn => hm.dur_eq rfl (hi.nextSlot_cursorOk hr hn)
  exact ⟨_, execTxUpdate_setOvr hi hd ht, rfl, rfl⟩

/-! ### A setter between two steps of TX_UPDATE (R305) -/

theorem execTxUpdate_ovr {s t : State} (hi : Inv s) (ht : execTxUpdate s = .next t) : t.ovr = s.ovr := by
  rcases execTxUpdate_next ht with
    ⟨-, rfl⟩ | ⟨-, rfl⟩ | ⟨-, rfl⟩ | ⟨hr, u, r, he, ⟨-, rfl⟩ | ⟨-, rfl⟩⟩
  case inr.inr.inr.inl =>
    obtain ⟨u', r', he', ha⟩ := emitAndAdvance_advances hi hr
    obtain ⟨rfl, -⟩ := Prod.mk.inj (he.symm.trans he')
    obtain ⟨-, hovr, -⟩ := ha.frame
    exact hovr
  all_goals rfl

/-- Settles O33: a setter keeps the preload, and the step after it computes its length on the state it comes to, whose
override is the setter's. -/
theorem overrideChangeSparesPreload : Obligations.OverrideChangeSparesPreload := by
  unfold Obligations.OverrideChangeSparesPreload
  intro i s s' t r hi hop hs ht hrel
  have hi' : Inv s' := exec_keeps_inv hi hs
  have htx : s'.tx = s.tx := exec_keeps_tx hs (by rcases hop with h | h <;> simp [h])
  obtain ⟨hk, -, -, -, hd⟩ := txUpdate_reload hi' ht hrel
  exact ⟨(arrActive_of_txUpdate_done ht hk).trans (congrArg (·.arrPreload) htx), execTxUpdate_ovr hi' ht, hd⟩

end Sys2Proof.Machine
end

section
/-! SUPPORT. The status reads READ_REG and READ_BUF (45_status.md R320, R321). -/

namespace Sys2Proof.Machine

/-! ### What the two reads leave unchanged -/

/-- R7: an answer changes nothing but the outputs of the step. -/
theorem respond_changes_only_out (ws : List Word) (s : State) :
    SameGroups s (respond ws s) ∧ (respond ws s).fault = s.fault ∧ SameMemory s (respond ws s) ∧
      (respond ws s).out = { kind := .done, resp := ws, reload := none } :=
  ⟨⟨rfl, rfl, rfl, rfl, rfl, rfl⟩, rfl, fun _ => rfl, rfl⟩

/-- R330, R340: a fault changes only FAULT. -/
theorem faultedOnly_raise (c : FaultCode) (s : State) : FaultedOnly c s (raise c s) :=
  ⟨rfl, rfl, rfl, rfl, rfl, fun _ => rfl, rfl, rfl, rfl⟩

/-! ### READ_REG (R320) -/

/-- R39: the register map holds exactly the assigned numbers. -/
theorem reg_isSome_iff {s : State} {n : Byte} : (reg s n).isSome = true ↔ AssignedRegister n.toNat := by
  unfold reg AssignedRegister
  split
  case h_21 =>
    simp only [imp_false, Option.isSome_none, Bool.false_eq_true, false_iff] at *
    omega
  all_goals simp [*]

theorem exec_readReg_of_some {s : State} {n : Byte} {w : Word} (hw : reg s n = some w) :
    exec (.readReg n) s = .next (respond [w] s) := by
  simp [exec, execReadReg, hw]

theorem exec_readReg_of_none {s : State} {n : Byte} (hn : reg s n = none) :
    exec (.readReg n) s = .next (raise .fieldInvalid s) := by
  simp [exec, execReadReg, hn]

/-! ### READ_BUF (R321) -/

theorem exec_readBuf_of_le {s : State} {a : Byte} (ha : a.toNat ≤ 0x8F) :
    exec (.readBuf a) s = .next (respond [(s.mem.read a.toNat).zeroExtend 32] s) := by
  simp [exec, execReadBuf, bufferByte, mapped, bufferTop, ha]

theorem exec_readBuf_of_lt {s : State} {a : Byte} (ha : 0x8F < a.toNat) :
    exec (.readBuf a) s = .next (raise .fieldInvalid s) := by
  simp [exec, execReadBuf, bufferByte, mapped, bufferTop, Nat.not_le.mpr ha]

/-- Settles O50: each read answers one word where the register map or the buffer space holds one, and otherwise raises
FIELD_INVALID. -/
theorem statusReadsHaveNoSideEffect : Obligations.StatusReadsHaveNoSideEffect := by
  unfold Obligations.StatusReadsHaveNoSideEffect
  refine fun s n => ⟨fun hn => ?assigned, fun hn => ?unassigned, fun hn => ?mapped, fun hn => ?unmapped⟩
  case assigned =>
    obtain ⟨w, hw⟩ := Option.isSome_iff_exists.mp (reg_isSome_iff.mpr hn)
    exact ⟨_, w, exec_readReg_of_some hw, hw, respond_changes_only_out [w] s⟩
  case unassigned =>
    have hw : reg s n = none := Option.not_isSome_iff_eq_none.mp (mt reg_isSome_iff.mp hn)
    exact ⟨_, exec_readReg_of_none hw, faultedOnly_raise .fieldInvalid s⟩
  case mapped =>
    have hw : ((s.mem.read n.toNat).zeroExtend 32).toNat = (s.mem.read n.toNat).toNat :=
      BitVec.toNat_setWidth_of_le (by decide)
    exact ⟨_, _, exec_readBuf_of_le hn, hw, respond_changes_only_out _ s⟩
  case unmapped => exact ⟨_, exec_readBuf_of_lt hn, faultedOnly_raise .fieldInvalid s⟩

end Sys2Proof.Machine
end

section
/-! SUPPORT. The faults of the operations (60_exceptions.md R330-R340): which operation raises which code, and what a
fault leaves. -/

namespace Sys2Proof.Machine

/-! ### Which operation raises which fault -/

/-- R333-R337: every fault of an operation other than RELOAD_RANGE, with its condition. -/
inductive RaisedBy (s : State) : Instr → FaultCode → Prop
  | thresholdTooWide {v : BitVec 16} (h : 2 ^ s.params.dacBits ≤ v.toNat) :
    RaisedBy s (.setBidiThreshold v) .fieldInvalid
  | timestampTooWide {ts : Word} (h : 2 ^ s.params.capBits ≤ ts.toNat) : RaisedBy s (.rxCapture ts) .fieldInvalid
  | noRegister {n : Byte} (h : reg s n = none) : RaisedBy s (.readReg n) .fieldInvalid
  | noBufferByte {a : Byte} (h : bufferByte s a = none) : RaisedBy s (.readBuf a) .fieldInvalid
  | startUninit (h : s.tx.run = .uninit) : RaisedBy s .start .notInitialized
  | updateUninit (h : s.tx.run = .uninit) : RaisedBy s .txUpdate .notInitialized
  | startOn (h : s.tx.run.on) : RaisedBy s .start .busy
  | initTxOn {np : Byte} {bidi invert trig : Bool} {b1 b0 : BitVec 16} (h : s.tx.run.on) :
    RaisedBy s (.initTx np bidi invert trig b1 b0) .busy
  | configRefused {np : Byte} {bidi invert trig : Bool} {b1 b0 : BitVec 16}
    (hr : s.tx.run = .uninit ∨ s.tx.run = .stopped) (hc : ¬ AcceptedConfig s.params np bidi b1 b0) :
    RaisedBy s (.initTx np bidi invert trig b1 b0) .configInvalid
  | packetTooLong {bytes : List Byte} (h : s.params.pktCapacity < bytes.length) :
    RaisedBy s (.packet bytes) .packetLength

/-- R330: under its condition the fault is raised. -/
theorem RaisedBy.exec {s : State} {i : Instr} {c : FaultCode} (h : RaisedBy s i c) : exec i s = .next (raise c s) := by
  cases h with
  | thresholdTooWide h => exact if_pos h
  | timestampTooWide h => exact if_pos h
  | noRegister h => exact exec_readReg_of_none h
  | noBufferByte h => simp only [Machine.exec, execReadBuf, h]
  | startUninit h => simp only [Machine.exec, execStart, h]
  | updateUninit h => simp only [Machine.exec, execTxUpdate, h]
  | startOn h => rcases h with h | h <;> simp only [Machine.exec, execStart, h]
  | initTxOn h => rcases h with h | h <;> simp only [Machine.exec, execInitTx, h]
  | configRefused hr hc =>
    have hno := mt configOk_iff_acceptedConfig.mp hc
    rcases hr with hr | hr <;> simp only [Machine.exec, execInitTx, hr, if_neg hno]
  | packetTooLong h => exact if_pos h

/-- R162, R338: the slot that a Running engine comes to has a length outside `[1, ARR_MAX]`. -/
def ReloadOutOfRange (s : State) : Prop :=
  s.tx.run = .running ∧ ∃ u r, emitAndAdvance s = (u, .ok r) ∧ reloadOk s.params r = false

/-- A step that takes no fault and leaves FAULT alone. -/
structure NoFault (s t : State) : Prop where
  fault : t.fault = s.fault
  kind : ∀ c, t.out.kind ≠ .faulted c

/-- R162: up to its range check a Running engine's step leaves FAULT and the receive engine alone, and changes the
return channel as the emitted slot does. -/
theorem emitAndAdvance_frame {s u : State} {e : Except Fault Int} (h : emitAndAdvance s = (u, e)) :
    u.fault = s.fault ∧ u.rx = s.rx ∧ u.bidi = (emitted s).bidi := by
  have hem : (emitted s).fault = s.fault ∧ (emitted s).rx = s.rx :=
    ⟨emit_fault (loadActive s) _, emit_rx (loadActive s) _⟩
  unfold emitAndAdvance at h
  rcases advance_cases (emitted s) with ⟨-, -, he⟩ | ⟨-, -, he⟩ | ⟨c, -, he⟩
  all_goals
    obtain ⟨rfl, -⟩ := Prod.mk.inj (he.symm.trans h)
    exact ⟨hem.1, hem.2, rfl⟩

/-- R330, R338, R340: an operation raises a fault on the state before it, raises RELOAD_RANGE and stops the engine, or
takes no fault. -/
theorem exec_cases {i : Instr} {s t : State} (ht : exec i s = .next t) :
    (∃ c, RaisedBy s i c ∧ t = raise c s) ∨
    (i = .txUpdate ∧ ReloadOutOfRange s ∧ t = raise .reloadRange (stopEngine s)) ∨ NoFault s t := by
  cases i with
  | initTx =>
    rcases execInitTx_next ht with ⟨hr, rfl⟩ | ⟨hr, ⟨-, rfl⟩ | ⟨hc, rfl⟩⟩
    · exact .inl ⟨_, .initTxOn hr, rfl⟩
    · exact .inr (.inr ⟨rfl, nofun⟩)
    · exact .inl ⟨_, .configRefused hr fun ha => by simp [configOk_iff_acceptedConfig.mpr ha] at hc, rfl⟩
  | packet =>
    rcases execPacket_next ht with ⟨hl, rfl⟩ | ⟨-, rfl⟩
    · exact .inl ⟨_, .packetTooLong hl, rfl⟩
    · exact .inr (.inr ⟨rfl, nofun⟩)
  | start =>
    rcases execStart_next ht with ⟨hr, rfl⟩ | ⟨hr, rfl⟩ | ⟨-, rfl⟩
    · exact .inl ⟨_, .startUninit hr, rfl⟩
    · exact .inl ⟨_, .startOn hr, rfl⟩
    · exact .inr (.inr ⟨rfl, nofun⟩)
  | stop => rcases execStop_next ht with ⟨-, rfl⟩ | ⟨-, rfl⟩ <;> exact .inr (.inr ⟨rfl, nofun⟩)
  | setOvrMask => cases ht; exact .inr (.inr ⟨rfl, nofun⟩)
  | setOvrDelta sel => cases sel <;> cases ht <;> exact .inr (.inr ⟨rfl, nofun⟩)
  | setBidiThreshold =>
    rcases execSetBidiThreshold_next ht with ⟨hv, rfl⟩ | ⟨-, rfl⟩
    · exact .inl ⟨_, .thresholdTooWide hv, rfl⟩
    · exact .inr (.inr ⟨rfl, nofun⟩)
  | rxInit => cases ht; exact .inr (.inr ⟨rfl, nofun⟩)
  | rxTake => rcases execRxTake_next ht with ⟨-, rfl⟩ | ⟨-, rfl⟩ <;> exact .inr (.inr ⟨rfl, nofun⟩)
  | bidiTake => rcases execBidiTake_next ht with ⟨-, rfl⟩ | ⟨-, rfl⟩ <;> exact .inr (.inr ⟨rfl, nofun⟩)
  | readReg =>
    rcases execReadReg_next ht with ⟨hn, rfl⟩ | ⟨w, -, rfl⟩
    · exact .inl ⟨_, .noRegister hn, rfl⟩
    · exact .inr (.inr ⟨rfl, nofun⟩)
  | readBuf =>
    rcases execReadBuf_next ht with ⟨ha, rfl⟩ | ⟨w, -, rfl⟩
    · exact .inl ⟨_, .noBufferByte ha, rfl⟩
    · exact .inr (.inr ⟨rfl, nofun⟩)
  | txUpdate =>
    rcases execTxUpdate_next ht with
      ⟨hr, rfl⟩ | ⟨-, rfl⟩ | ⟨-, rfl⟩ | ⟨hr, u, r, he, ⟨-, rfl⟩ | ⟨hrange, rfl⟩⟩
    · exact .inl ⟨_, .updateUninit hr, rfl⟩
    · exact .inr (.inr ⟨rfl, nofun⟩)
    · exact .inr (.inr ⟨rfl, nofun⟩)
    · exact .inr (.inr ⟨(setReload_fault u r).trans (emitAndAdvance_frame he).1, nofun⟩)
    · exact .inr (.inl ⟨rfl, ⟨hr, u, r, he, hrange⟩, rfl⟩)
  | rxCapture =>
    rcases execRxCapture_next ht with ⟨hts, rfl⟩ | ⟨-, u, hu, rfl⟩
    · exact .inl ⟨_, .timestampTooWide hts, rfl⟩
    · exact .inr (.inr ⟨(captureStep_frame hu).fault, nofun⟩)
  | bidiByte => rcases execBidiByte_next ht with ⟨-, rfl⟩ | ⟨a, -, rfl⟩ <;> exact .inr (.inr ⟨rfl, nofun⟩)
  | rxBidiFire =>
    rcases execRxBidiFire_next ht with ⟨-, rfl⟩ | ⟨-, rfl⟩ | ⟨-, rfl⟩ <;> exact .inr (.inr ⟨rfl, nofun⟩)

section
variable {i : Instr} {s t : State} {c : FaultCode}

/-- R340: a fault other than RELOAD_RANGE is raised on the state before the operation. -/
theorem raisedBy_of_faulted (ht : exec i s = .next t) (hk : t.out.kind = .faulted c) (hc : c ≠ .reloadRange) :
    RaisedBy s i c ∧ t = raise c s := by
  rcases exec_cases ht with ⟨c', h, rfl⟩ | ⟨-, -, rfl⟩ | h
  · obtain rfl := StepKind.faulted.inj hk
    exact ⟨h, rfl⟩
  · exact absurd (StepKind.faulted.inj hk).symm hc
  · exact absurd hk (h.kind c)

/-- R338: RELOAD_RANGE is raised by TX_UPDATE alone. -/
theorem reloadOutOfRange_of_faulted (ht : exec i s = .next t) (hk : t.out.kind = .faulted .reloadRange) :
    i = .txUpdate ∧ ReloadOutOfRange s := by
  rcases exec_cases ht with ⟨c', h, rfl⟩ | ⟨hi, h, -⟩ | h
  · obtain rfl := StepKind.faulted.inj hk
    cases h
  · exact ⟨hi, h⟩
  · exact absurd hk (h.kind _)

/-- R340: where an operation's fault is raised, nothing but FAULT changes. -/
theorem RaisedBy.faultedOnly (h : RaisedBy s i c) : ∃ t, Machine.exec i s = .next t ∧ FaultedOnly c s t :=
  ⟨_, h.exec, faultedOnly_raise c s⟩

end

/-! ### The faults of one code -/

/-- Settles O10: the bounds of R158 are those that INIT_TX checks, and nothing else raises the code. -/
theorem configInvalidFault : Obligations.ConfigInvalidFault := by
  unfold Obligations.ConfigInvalidFault
  refine ⟨fun s np bidi invert trig b1 b0 hr hc => (RaisedBy.configRefused hr hc).faultedOnly, fun i s t ht hk => ?_⟩
  cases (raisedBy_of_faulted ht hk nofun).1 with
  | configRefused hr hc => exact ⟨hr, _, _, _, _, _, _, rfl, hc⟩

/-- Settles O12: PACKET checks its length, and nothing else raises the code. -/
theorem packetLengthFault : Obligations.PacketLengthFault := by
  unfold Obligations.PacketLengthFault
  refine ⟨fun s bytes hl => (RaisedBy.packetTooLong hl).faultedOnly, fun i s t ht hk => ?_⟩
  cases (raisedBy_of_faulted ht hk nofun).1 with
  | packetTooLong hl => exact ⟨_, rfl, hl⟩

/-- Settles O15: START and TX_UPDATE check for Uninit, and nothing else raises the code. -/
theorem notInitializedFault : Obligations.NotInitializedFault := by
  unfold Obligations.NotInitializedFault
  refine ⟨fun i s hi hr => ?_, fun i s t ht hk => ?_⟩
  · rcases hi with rfl | rfl
    · exact (RaisedBy.startUninit hr).faultedOnly
    · exact (RaisedBy.updateUninit hr).faultedOnly
  · cases (raisedBy_of_faulted ht hk nofun).1 with
    | startUninit hr => exact ⟨.inl rfl, hr⟩
    | updateUninit hr => exact ⟨.inr rfl, hr⟩

/-- Settles O16: INIT_TX and START check that the engine is off, and nothing else raises the code. -/
theorem busyFault : Obligations.BusyFault := by
  unfold Obligations.BusyFault
  refine ⟨fun i s hop hr => ?_, fun i s t ht hk => ?_⟩
  · cases i with
    | initTx => exact (RaisedBy.initTxOn hr).faultedOnly
    | start => exact (RaisedBy.startOn hr).faultedOnly
    | _ => simp [Instr.op] at hop
  · cases (raisedBy_of_faulted ht hk nofun).1 with
    | initTxOn hr => exact ⟨.inl rfl, hr⟩
    | startOn hr => exact ⟨.inr rfl, hr⟩

end Sys2Proof.Machine
end

section
/-! SUPPORT. The faults of a step (60_exceptions.md R330-R332, R338, R340): the illegal headers, the first fault, what a
fault leaves unchanged, RELOAD_RANGE, and that a step always answers a next state (R330, R345). -/

namespace Sys2Proof.Machine

/-! ### Illegal headers (R332) -/

theorem toNat_opcField (w : Word) : (opcField w).toNat = w.toNat % 256 := by
  simp [opcField]

/-- R92, R332: no row has the header's opcode on the port exactly when the opcode is in the ranges of R332. -/
theorem ofHeader_eq_none_iff {port : Port} {w : Word} :
    Op.ofHeader port w = none ↔ IllegalOn port (w.toNat % 256) := by
  rw [← toNat_opcField]
  have hlt := (opcField w).isLt
  simp only [Op.ofHeader, List.find?_eq_none, Op.all, IllegalOn]
  cases port <;> simp [Op.code, Op.port, BitVec.toNat_eq] <;> omega

theorem decode_eq_illegalOpcode_iff {p : Params} {port : Port} {w0 : Word} {rest : List Word} :
    decode p port (w0 :: rest) = .illegalOpcode ↔ Op.ofHeader port w0 = none := by
  cases hop : Op.ofHeader port w0 with
  | none => simp [decode, hop]
  | some op =>
    simp only [decode, hop, reduceCtorEq, iff_false]
    split
    · nofun
    · split <;> nofun

theorem step_of_fetch_illegalOpcode {s : State} {port : Port} {turns : List Port} (hv : s.params.valid = true)
    (ht : s.ports.turns = port :: turns) (hf : fetch s port = .illegalOpcode) :
    step s = .next (raise .illegalOpcode (consumed port 1 s)) := by
  simp [step, hv, ht, hf]

/-- Settles O5: a header that selects no row is one of those R332 lists, and the step consumes it alone. -/
theorem illegalOpcodeFaults : Obligations.IllegalOpcodeFaults := by
  unfold Obligations.IllegalOpcodeFaults
  intro s port w0 rest turns hv ht hw
  have hiff : decode s.params port (w0 :: rest) = .illegalOpcode ↔ IllegalOn port (w0.toNat % 256) :=
    decode_eq_illegalOpcode_iff.trans ofHeader_eq_none_iff
  refine ⟨hiff, fun hill => ?_⟩
  have hf : fetch s port = .illegalOpcode := by rw [fetch, hw, hiff.mpr hill]
  refine ⟨_, step_of_fetch_illegalOpcode hv ht hf, ?_, ?_, ?_, faultedOnly_raise_consumed ..⟩
  · simp [hw]
  · simp [ht]
  · intro q hq
    simp [Ports.words_consume_of_ne _ hq]

/-! ### The first fault (R330, R331) -/

/-- R330: FAULT takes the code of a fault if it is 0, and is otherwise kept. -/
structure FirstFault (s t : State) : Prop where
  kept : s.fault ≠ 0 → t.fault = s.fault
  taken : s.fault = 0 → ∀ c, t.out.kind = .faulted c → t.fault = c.code
  quiet : (∀ c, t.out.kind ≠ .faulted c) → t.fault = s.fault

/-- R330: `raise` on a state with the FAULT of the state before. -/
theorem firstFault_raise {s u : State} (c : FaultCode) (hf : u.fault = s.fault) : FirstFault s (raise c u) where
  kept h := by rw [raise_fault, hf, if_neg h]
  taken h c' hk := by
    obtain rfl := StepKind.faulted.inj hk
    rw [raise_fault, hf, if_pos h]
  quiet h := absurd rfl (h c)

theorem NoFault.firstFault {s t : State} (h : NoFault s t) : FirstFault s t where
  kept _ := h.fault
  taken _ c hk := absurd hk (h.kind c)
  quiet _ := h.fault

theorem exec_firstFault {i : Instr} {s t : State} (ht : exec i s = .next t) : FirstFault s t := by
  rcases exec_cases ht with ⟨c, -, rfl⟩ | ⟨-, -, rfl⟩ | h
  · exact firstFault_raise c rfl
  · exact firstFault_raise .reloadRange (stopEngine_fault s)
  · exact h.firstFault

theorem step_firstFault {s t : State} (ht : step s = .next t) : FirstFault s t := by
  rcases step_next ht with
    ⟨-, ⟨-, rfl⟩ | ⟨port, -, ⟨-, rfl⟩ | ⟨-, rfl⟩ | ⟨n, -, rfl⟩ | ⟨i, n, -, he⟩⟩⟩
  · exact NoFault.firstFault ⟨rfl, nofun⟩
  · exact NoFault.firstFault ⟨rfl, nofun⟩
  · exact firstFault_raise _ rfl
  · exact firstFault_raise _ rfl
  · obtain ⟨hkept, htaken, hquiet⟩ := exec_firstFault he
    exact ⟨hkept, htaken, hquiet⟩

/-- Settles O53: every fault of a step is taken by `raise`, and nothing else writes FAULT. -/
theorem firstFaultIsKept : Obligations.FirstFaultIsKept := by
  unfold Obligations.FirstFaultIsKept
  refine ⟨⟨rfl, rfl, rfl, rfl, rfl, rfl, rfl⟩, fun s t ht => ?_⟩
  obtain ⟨hkept, htaken, hquiet⟩ := step_firstFault ht
  exact ⟨hkept, htaken, hquiet⟩

/-! ### Faults are precise (R340, R105) -/

/-- R105, R340: a step that faults other than with RELOAD_RANGE raises its code on the state with the words of the
transaction consumed. -/
theorem step_faulted {s t : State} {c : FaultCode} (ht : step s = .next t) (hk : t.out.kind = .faulted c)
    (hc : c ≠ .reloadRange) :
    ∃ port n, s.ports.turns.head? = some port ∧ t = raise c (consumed port n s) ∧
      ((fetch s port = .illegalOpcode ∧ n = 1) ∨ fetch s port = .fieldInvalid n ∨ ∃ i, fetch s port = .cmd i n) := by
  rcases step_next ht with
    ⟨-, ⟨-, rfl⟩ | ⟨port, hp, ⟨-, rfl⟩ | ⟨hf, rfl⟩ | ⟨n, hf, rfl⟩ | ⟨i, n, hf, he⟩⟩⟩
  · cases hk
  · cases hk
  · obtain rfl := StepKind.faulted.inj hk
    exact ⟨port, 1, hp, rfl, .inl ⟨hf, rfl⟩⟩
  · obtain rfl := StepKind.faulted.inj hk
    exact ⟨port, n, hp, rfl, .inr (.inl hf)⟩
  · exact ⟨port, n, hp, (raisedBy_of_faulted he hk hc).2, .inr (.inr ⟨i, hf⟩)⟩

/-- Settles O55: such a fault is `raise`, on the state before the operation and on the state with the words consumed. -/
theorem faultingStepIsPrecise : Obligations.FaultingStepIsPrecise := by
  unfold Obligations.FaultingStepIsPrecise
  refine ⟨fun i s t c ht hk hc => ?_, fun s t c ht hk hc => ?_⟩
  · obtain ⟨-, rfl⟩ := raisedBy_of_faulted ht hk hc
    exact faultedOnly_raise c s
  · obtain ⟨port, n, hp, rfl, hf⟩ := step_faulted ht hk hc
    exact ⟨faultedOnly_raise_consumed c port n s, port, n, hp, rfl, hf⟩

/-! ### RELOAD_RANGE (R338) -/

theorem reloadOk_iff {p : Params} {r : Int} : reloadOk p r = true ↔ 1 ≤ r ∧ r ≤ p.arrMax := by
  simp only [reloadOk, Bool.and_eq_true, decide_eq_true_eq]

/-- R338: RELOAD_RANGE is raised on the state before the step with its engine stopped. -/
theorem execTxUpdate_of_reloadOutOfRange {s : State} (h : ReloadOutOfRange s) :
    execTxUpdate s = .next (raise .reloadRange (stopEngine s)) := by
  obtain ⟨hr, u, r, he, hrange⟩ := h
  simp [execTxUpdate, hr, he, hrange]

/-- R22, R158: the half-periods of an accepted configuration are in range. -/
theorem CfgOk.reloadOk_halfPeriod {p : Params} {cfg : TxCfg} (h : CfgOk p cfg) (b : Bool) :
    reloadOk p (halfPeriod b cfg).toNat = true := by
  have h1 := h.bit1Range
  have h0 := h.bit0Range
  rw [reloadOk_iff, halfPeriod]
  split <;> omega

/-- R158: the cutout slots of an accepted configuration are in range. -/
theorem CfgOk.reloadOk_bidiTicks {p : Params} {cfg : TxCfg} (h : CfgOk p cfg) (hb : cfg.bidi = true) {ph : Phase}
    (hph : ph ∈ cutoutPhases) : reloadOk p (bidiTicks p ph) = true := by
  have := h.cutout hb ph hph
  rw [reloadOk_iff]
  omega

/-- R22, R153: only an adjustment takes the length of a slot of the frame out of range. -/
theorem adjusted_of_dur_outOfRange {s : State} {c : Cursor} {r : Int} (hcfg : CfgOk s.params s.tx.cfg)
    (hc : CursorOk s.tx.cfg s.tx.actLen c) (hd : dur s c = .ok r) (hr : reloadOk s.params r = false) :
    c.phase = .data ∧ bitval s c.byteIdx c.bitIdx = .ok false ∧
      ovrAdjust s false (bitPosition c.byteIdx c.bitIdx) c.half ≠ 0 := by
  have hne : ∀ {q : Int}, reloadOk s.params q = true → dur s c ≠ .ok q := by
    rintro q hq he
    obtain rfl := Except.ok.inj (hd.symm.trans he)
    simp [hr] at hq
  cases hph : c.phase with
  | preamble => exact absurd (dur_of_preamble hph) (hne (hcfg.reloadOk_halfPeriod true))
  | data =>
    cases hb : bitval s c.byteIdx c.bitIdx with
    | error f => simp [dur, hph, hb] at hd
    | ok b =>
      have hdur := dur_of_data hph hb
      have hadj : ovrAdjust s b (bitPosition c.byteIdx c.bitIdx) c.half ≠ 0 := fun h0 => by
        rw [h0, add_zero] at hdur
        exact hne (hcfg.reloadOk_halfPeriod b) hdur
      cases b with
      | true => exact absurd (ovrAdjust_one _ _) hadj
      | false => exact ⟨rfl, rfl, hadj⟩
  | bidiStart | bidiCh1 | bidiCh2 | bidiEnd =>
    have hmem : c.phase ∈ cutoutPhases := by rw [hph]; decide
    simp only [CursorOk, hph] at hc
    exact absurd (dur_of_cutout hmem) (hne (hcfg.reloadOk_bidiTicks hc.1 hmem))

/-- R338: in a state of the invariant the out-of-range length is that of the next Data slot, adjusted. -/
theorem ReloadOutOfRange.adjusted {s : State} (h : ReloadOutOfRange s) (hi : Inv s) :
    ∃ c, nextSlot s.tx.cfg s.tx.actLen s.tx.cursor = some c ∧ c.phase = .data ∧
      bitval s c.byteIdx c.bitIdx = .ok false ∧ ovrAdjust s false (bitPosition c.byteIdx c.bitIdx) c.half ≠ 0 := by
  obtain ⟨hr, u, r, he, hrange⟩ := h
  have hon : s.tx.run ≠ .uninit := by simp [hr]
  obtain ⟨u', r', he', ha⟩ := emitAndAdvance_advances hi hr
  obtain ⟨-, h⟩ := Prod.mk.inj (he.symm.trans he')
  obtain rfl := Except.ok.inj h
  cases ha with
  | halt | latch => simp [reloadOk_bit1Ticks hi hon] at hrange
  | @move c _ hn hd =>
    exact ⟨c, hn, adjusted_of_dur_outOfRange (hi.tx.cfg hon) (hi.nextSlot_cursorOk hr hn) hd hrange⟩

/-- Settles O20: the step is discarded for the stopped engine, and only an adjusted "0" bit is so long or so short. -/
theorem reloadRangeStopsEngine : Obligations.ReloadRangeStopsEngine := by
  unfold Obligations.ReloadRangeStopsEngine
  refine ⟨fun s c r hi hr hn hd hrange => ?_, fun i s t hi ht hk => ?_⟩
  · have hout : ReloadOutOfRange s :=
      ⟨hr, _, r, (Advances.move hn hd).emitAndAdvance_eq hi hr, Bool.eq_false_iff.mpr (mt reloadOk_iff.mp hrange)⟩
    exact ⟨_, execTxUpdate_of_reloadOutOfRange hout, rfl, rfl, rfl, rfl, rfl, rfl, rfl, fun _ => rfl, rfl, rfl⟩
  · obtain ⟨rfl, hout⟩ := reloadOutOfRange_of_faulted ht hk
    exact ⟨rfl, hout.1, hout.adjusted hi⟩

/-! ### The block never stops (R330, R345) -/

/-- R162: TX_UPDATE answers in every run state. -/
theorem Inv.execTxUpdate_ok {s : State} (hi : Inv s) : ∃ t, execTxUpdate s = .next t := by
  cases hr : s.tx.run with
  | uninit => exact ⟨_, (RaisedBy.updateUninit hr).exec⟩
  | stopped | halting =>
    simp only [execTxUpdate, hr]
    exact ⟨_, rfl⟩
  | running =>
    obtain ⟨u, r, he, ha⟩ := emitAndAdvance_advances hi hr
    cases hrange : reloadOk s.params r with
    | true => exact ⟨_, ha.execTxUpdate hi hr hrange⟩
    | false => exact ⟨_, execTxUpdate_of_reloadOutOfRange ⟨hr, u, r, he, hrange⟩⟩

theorem Inv.execRxCapture_ok {s : State} (hi : Inv s) (ts : Word) : ∃ t, execRxCapture ts s = .next t := by
  by_cases hts : 2 ^ s.params.capBits ≤ ts.toNat
  · exact ⟨_, (RaisedBy.timestampTooWide hts).exec⟩
  · obtain ⟨u, hu, -⟩ := hi.captureStep_ok (Nat.lt_of_not_le hts)
    exact ⟨_, execRxCapture_of_captureStep (Nat.lt_of_not_le hts) hu⟩

theorem Inv.execRxTake_ok {s : State} (hi : Inv s) : ∃ t, execRxTake s = .next t := by
  cases hr : s.rx.ready with
  | false => exact ⟨_, execRxTake_of_not_ready hr⟩
  | true => exact ⟨_, hi.execRxTake_of_ready hr⟩

/-- R330: in a state of the invariant every operation answers; only three can name what does not exist (log 10). -/
theorem Inv.exec_ok {s : State} (hi : Inv s) (i : Instr) : ∃ t, exec i s = .next t := by
  cases i with
  | txUpdate => exact hi.execTxUpdate_ok
  | rxCapture ts => exact hi.execRxCapture_ok ts
  | rxTake => exact hi.execRxTake_ok
  | initTx =>
    simp only [exec, execInitTx]
    split
    · exact ⟨_, rfl⟩
    · exact ⟨_, rfl⟩
    all_goals split <;> exact ⟨_, rfl⟩
  | packet | setBidiThreshold | bidiTake =>
    simp only [exec, execPacket, execSetBidiThreshold, execBidiTake]
    split <;> exact ⟨_, rfl⟩
  | start | stop | readReg | readBuf | bidiByte | rxBidiFire =>
    simp only [exec, execStart, execStop, execReadReg, execReadBuf, execBidiByte, execRxBidiFire]
    split <;> exact ⟨_, rfl⟩
  | setOvrMask | rxInit => exact ⟨_, rfl⟩
  | setOvrDelta sel => cases sel <;> exact ⟨_, rfl⟩

theorem Inv.step_ok {s : State} (hi : Inv s) : ∃ t, step s = .next t := by
  cases ht : s.ports.turns with
  | nil => exact ⟨await s, by simp [step, hi.params, ht]⟩
  | cons port turns =>
    cases hf : fetch s port with
    | incomplete => exact ⟨await (turnPassed s), by simp [step, hi.params, ht, hf]⟩
    | illegalOpcode => exact ⟨_, step_of_fetch_illegalOpcode hi.params ht hf⟩
    | fieldInvalid n => exact ⟨_, step_of_fetch_fieldInvalid hi.params ht hf⟩
    | cmd i n =>
      rw [step_of_fetch_cmd hi.params ht hf]
      exact (inv_consumed hi port n).exec_ok i

/-- R370: the state after reset is all zero, with the engine Uninit and the receiver in Hunt. -/
theorem inv_resetWith {p : Params} (hp : p.valid = true) : Inv (State.resetWith p) where
  params := hp
  mem := rfl
  tails := ⟨fun _ _ _ => rfl, fun _ _ _ => rfl, fun _ _ _ => rfl, fun _ _ _ => rfl, fun _ _ _ => rfl,
    fun _ _ _ => rfl, fun _ _ _ => rfl, fun _ _ _ => rfl⟩
  tx := by constructor <;> simp [State.resetWith, Tx.reset, Cursor.first, RunState.on]
  bidi := by constructor <;> simp [State.resetWith]
  rx := by constructor <;> simp [State.resetWith, Rx.reset]
  checksum := fun h => absurd rfl h
  fault := Nat.zero_le _

/-- R370: runs from reset stay in the invariant, whatever arrives on the ports. -/
theorem Reachable.inv {s : State} (h : Reachable s) : Inv s := by
  induction h with
  | reset p hp => exact inv_resetWith hp
  | arrive s q _ hi => exact hi.of_same rfl rfl rfl rfl rfl hi.fault
  | step s t _ ht hi => exact stepKeepsInvariant s t hi ht

/-- Settles O60: a state of the invariant answers a step, and runs stay in the invariant. -/
theorem reachableStatesNeverStop : Obligations.ReachableStatesNeverStop := by
  unfold Obligations.ReachableStatesNeverStop
  exact ⟨fun _ hi => hi.step_ok, fun _ h => h.inv.step_ok⟩

end Sys2Proof.Machine
end

section
/-! SUPPORT. What an operation does does not depend on FAULT (60_exceptions.md R330): an operation on a state with
another FAULT answers the same state but for FAULT. -/

namespace Sys2Proof.Machine

/-- The state with another FAULT. -/
def setFault (f : Byte) (s : State) : State := { s with fault := f }

/-! ### The shared operations of the transmit engine with another FAULT -/

section
variable (f : Byte) (s : State)

theorem emit_setFault (c : Cursor) : emit c (setFault f s) = setFault f (emit c s) := by
  unfold emit
  cases c.phase <;> rfl

theorem nextSlot_setFault :
    nextSlot (setFault f s).tx.cfg (setFault f s).tx.actLen (setFault f s).tx.cursor =
      nextSlot s.tx.cfg s.tx.actLen s.tx.cursor := rfl

theorem advance_setFault : advance (setFault f s) = (setFault f (advance s).1, (advance s).2) := by
  unfold advance
  rw [nextSlot_setFault]
  cases nextSlot s.tx.cfg s.tx.actLen s.tx.cursor with
  | none => cases hs : s.tx.stopReq <;> simp only [setFault, hs] <;> rfl
  | some c => rfl

theorem emitAndAdvance_setFault :
    emitAndAdvance (setFault f s) = (setFault f (emitAndAdvance s).1, (emitAndAdvance s).2) := by
  have he := emit_setFault f (loadActive s) s.tx.cursor
  exact (congrArg advance he).trans (advance_setFault f (emitted s))

/-! ### The framing steps of the receiver with another FAULT -/

theorem huntStep_setFault (one : Bool) : huntStep one (setFault f s) = setFault f (huntStep one s) := by
  simp only [huntStep, apply_ite (setFault f)]
  rfl

theorem start2Step_setFault (one : Bool) : start2Step one (setFault f s) = setFault f (start2Step one s) := by
  cases one <;> rfl

theorem armOneShot_setFault (ts : Word) (d : Nat) :
    armOneShot ts d (setFault f s) = setFault f (armOneShot ts d s) := by
  cases he : s.rx.bidiEn
  · rw [armOneShot_of_disabled he, armOneShot_of_disabled (s := setFault f s) he]
  · rw [armOneShot_of_enabled he, armOneShot_of_enabled (s := setFault f s) he]
    rfl

theorem packetEnd_setFault (ts : Word) (d : Nat) : packetEnd ts d (setFault f s) = setFault f (packetEnd ts d s) := by
  by_cases ha : rxAccepts s = true
  · rw [packetEnd_of_accepts ha, packetEnd_of_accepts (s := setFault f s) ha]
    exact congrArg huntReset (armOneShot_setFault f (fillReady s) ts d)
  · rw [packetEnd_of_rejects ha, packetEnd_of_rejects (s := setFault f s) ha]
    rfl

theorem storeByte_setFault : storeByte (setFault f s) = (storeByte s).map (setFault f) := by
  simp only [storeByte, apply_ite (Except.map (setFault f))]
  rfl

theorem takeBit_setFault (one : Bool) : takeBit one (setFault f s) = (takeBit one s).map (setFault f) := by
  simp only [takeBit, apply_ite (Except.map (setFault f)), ← storeByte_setFault]
  rfl

theorem dataStep_setFault (one : Bool) (ts : Word) (d : Nat) :
    dataStep one ts d (setFault f s) = (dataStep one ts d s).map (setFault f) := by
  simp only [dataStep, apply_ite (Except.map (setFault f)), packetEnd_setFault, takeBit_setFault]
  rfl

theorem frameStep_setFault (one : Bool) (ts : Word) (d : Nat) :
    frameStep one ts d (setFault f s) = (frameStep one ts d s).map (setFault f) := by
  have hst : (setFault f s).rx.st = s.rx.st := rfl
  unfold frameStep
  rw [huntStep_setFault, start2Step_setFault, dataStep_setFault, hst]
  cases s.rx.st <;> rfl

theorem captureStep_setFault (ts : Word) : captureStep ts (setFault f s) = (captureStep ts s).map (setFault f) := by
  by_cases hv : s.rx.tsValid = true
  · rcases (classify s.params (interval s ts)).eq_invalid_or with hc | ⟨one, hc⟩
    · rw [captureStep_of_invalid hv hc, captureStep_of_invalid (s := setFault f s) hv hc]
      rfl
    · rw [captureStep_of_half hv hc, captureStep_of_half (s := setFault f s) hv hc]
      exact frameStep_setFault f (recordEdge ts s) one ts (interval s ts)
  · rw [captureStep, captureStep, if_neg hv]
    exact if_neg hv

end

/-! ### Outcomes that differ in FAULT only -/

/-- All but FAULT is the same. -/
def SameButFault (t u : State) : Prop := u = setFault u.fault t

/-- Where the first outcome is a next state, so is the second, and they differ in FAULT only. -/
def SameOutcome (o o' : Host.Outcome State Fault Refusal) : Prop :=
  ∀ t, o = .next t → ∃ u, o' = .next u ∧ SameButFault t u

theorem sameOutcome_next {t u : State} (h : SameButFault t u) : SameOutcome (.next t) (.next u) := by
  rintro _ ⟨⟩
  exact ⟨u, rfl, h⟩

theorem sameOutcome_fault (r : Fault) (o : Host.Outcome State Fault Refusal) : SameOutcome (.fault r) o := by
  rintro _ ⟨⟩

theorem sameOutcome_ite {p : Prop} [Decidable p] {a a' b b' : Host.Outcome State Fault Refusal} (ha : SameOutcome a a')
    (hb : SameOutcome b b') : SameOutcome (if p then a else b) (if p then a' else b') := by
  split
  · exact ha
  · exact hb

/-- A fault is taken in both. -/
theorem sameOutcome_raise (f : Byte) (c : FaultCode) (s : State) :
    SameOutcome (.next (raise c s)) (.next (raise c (setFault f s))) := sameOutcome_next rfl

section
variable (f : Byte) (s : State)

theorem execTxUpdate_setFault : SameOutcome (execTxUpdate s) (execTxUpdate (setFault f s)) := by
  have hrun : (setFault f s).tx.run = s.tx.run := rfl
  unfold execTxUpdate
  rw [hrun, emitAndAdvance_setFault]
  cases s.tx.run with
  | uninit => exact sameOutcome_raise f _ s
  | stopped | halting => exact sameOutcome_next rfl
  | running =>
    obtain ⟨u, e⟩ := emitAndAdvance s
    cases e with
    | error r => exact sameOutcome_fault r _
    | ok r => exact sameOutcome_ite (sameOutcome_next rfl) (sameOutcome_raise f _ (stopEngine s))

theorem execRxCapture_setFault (ts : Word) : SameOutcome (execRxCapture ts s) (execRxCapture ts (setFault f s)) := by
  unfold execRxCapture
  rw [captureStep_setFault]
  refine sameOutcome_ite (sameOutcome_raise f _ s) ?_
  cases captureStep ts s with
  | error r => exact sameOutcome_fault r _
  | ok u => exact sameOutcome_next rfl

/-- R58: FAULT itself is the one register that shows FAULT. -/
theorem reg_setFault {n : Byte} (hn : n ≠ 0x1F) : reg (setFault f s) n = reg s n := by
  have hne : n.toNat ≠ 0x1F := fun e => hn (BitVec.eq_of_toNat_eq e)
  unfold reg
  split
  case h_20 => contradiction
  all_goals rfl

/-- R330: but for READ_REG of FAULT no operation reads FAULT. -/
theorem exec_setFault {i : Instr} (hi : i ≠ .readReg 0x1F) : SameOutcome (exec i s) (exec i (setFault f s)) := by
  cases i with
  | initTx np bidi invert trig b1 b0 =>
    have hrun : (setFault f s).tx.run = s.tx.run := rfl
    simp only [exec, execInitTx, hrun]
    cases s.tx.run with
    | running | halting => exact sameOutcome_raise f _ s
    | uninit | stopped => exact sameOutcome_ite (sameOutcome_next rfl) (sameOutcome_raise f _ s)
  | packet => exact sameOutcome_ite (sameOutcome_raise f _ s) (sameOutcome_next rfl)
  | start =>
    have hrun : (setFault f s).tx.run = s.tx.run := rfl
    simp only [exec, execStart, hrun]
    cases s.tx.run with
    | uninit | running | halting => exact sameOutcome_raise f _ s
    | stopped => exact sameOutcome_next rfl
  | stop =>
    have hrun : (setFault f s).tx.run = s.tx.run := rfl
    simp only [exec, execStop, hrun]
    cases s.tx.run <;> exact sameOutcome_next rfl
  | setOvrMask | rxInit => exact sameOutcome_next rfl
  | setOvrDelta sel => cases sel <;> exact sameOutcome_next rfl
  | setBidiThreshold => exact sameOutcome_ite (sameOutcome_raise f _ s) (sameOutcome_next rfl)
  | rxTake =>
    exact sameOutcome_ite (sameOutcome_ite (sameOutcome_next rfl) (sameOutcome_fault _ _)) (sameOutcome_next rfl)
  | bidiTake => exact sameOutcome_ite (sameOutcome_next rfl) (sameOutcome_next rfl)
  | readReg n =>
    simp only [exec, execReadReg, reg_setFault f s fun e => hi (e ▸ rfl)]
    cases reg s n with
    | none => exact sameOutcome_raise f _ s
    | some w => exact sameOutcome_next rfl
  | readBuf a =>
    have hb : bufferByte (setFault f s) a = bufferByte s a := rfl
    simp only [exec, execReadBuf, hb]
    cases bufferByte s a with
    | none => exact sameOutcome_raise f _ s
    | some w => exact sameOutcome_next rfl
  | txUpdate => exact execTxUpdate_setFault f s
  | rxCapture ts => exact execRxCapture_setFault f s ts
  | bidiByte b =>
    have hb : bidiStoreAddr (setFault f s) = bidiStoreAddr s := rfl
    simp only [exec, execBidiByte, hb]
    cases bidiStoreAddr s <;> exact sameOutcome_next rfl
  | rxBidiFire =>
    have hos : (setFault f s).rx.os = s.rx.os := rfl
    simp only [exec, execRxBidiFire, hos]
    cases s.rx.os <;> exact sameOutcome_next rfl

end

/-- Settles O54: another FAULT gives an outcome that differs in FAULT only, and READ_REG of FAULT answers it. -/
theorem faultDoesNotStopBlock : Obligations.FaultDoesNotStopBlock := by
  unfold Obligations.FaultDoesNotStopBlock
  intro i s t f ht
  by_cases hi : i = .readReg 0x1F
  · subst hi
    obtain rfl : respond [s.fault.zeroExtend 32] s = t := Host.Outcome.next.inj ht
    exact ⟨respond [f.zeroExtend 32] (setFault f s), rfl, rfl, rfl, rfl, rfl, rfl, rfl, rfl, rfl, rfl,
      fun hne => absurd rfl hne, fun _ => rfl⟩
  · obtain ⟨u, hu, hsame⟩ := exec_setFault f s hi t ht
    refine ⟨u, hu, ?_⟩
    rw [hsame]
    exact ⟨rfl, rfl, rfl, rfl, rfl, rfl, rfl, rfl, rfl, fun _ => rfl, fun h => absurd h hi⟩

end Sys2Proof.Machine
end

section
/-! SUPPORT. The two sides of the block and the three indications (60_exceptions.md R344, R349): which operations write
which side, and what sets and clears each indication. -/

namespace Sys2Proof.Machine

/-! ### The sides the operations write (R349) -/

theorem execTxUpdate_rx {s t : State} (ht : execTxUpdate s = .next t) : t.rx = s.rx := by
  rcases execTxUpdate_next ht with
    ⟨-, rfl⟩ | ⟨-, rfl⟩ | ⟨-, rfl⟩ | ⟨-, u, r, he, ⟨-, rfl⟩ | ⟨-, rfl⟩⟩
  case inr.inr.inr.inl => exact (setReload_rx u r).trans (emitAndAdvance_frame he).2.1
  all_goals rfl

/-- Only the four operations of 42_rx_engine.md change the receive engine. -/
theorem exec_keeps_rx {i : Instr} {s t : State} (ht : exec i s = .next t)
    (hop : i.op ∉ [.rxInit, .rxTake, .rxCapture, .rxBidiFire]) : t.rx = s.rx := by
  cases i with
  | rxInit | rxTake | rxCapture | rxBidiFire => simp [Instr.op] at hop
  | initTx => rcases execInitTx_next ht with ⟨-, rfl⟩ | ⟨-, ⟨-, rfl⟩ | ⟨-, rfl⟩⟩ <;> rfl
  | packet => rcases execPacket_next ht with ⟨-, rfl⟩ | ⟨-, rfl⟩ <;> rfl
  | start => rcases execStart_next ht with ⟨-, rfl⟩ | ⟨-, rfl⟩ | ⟨-, rfl⟩ <;> rfl
  | stop => rcases execStop_next ht with ⟨-, rfl⟩ | ⟨-, rfl⟩ <;> rfl
  | setOvrMask => cases ht; rfl
  | setOvrDelta sel => cases sel <;> cases ht <;> rfl
  | setBidiThreshold => rcases execSetBidiThreshold_next ht with ⟨-, rfl⟩ | ⟨-, rfl⟩ <;> rfl
  | bidiTake => rcases execBidiTake_next ht with ⟨-, rfl⟩ | ⟨-, rfl⟩ <;> rfl
  | readReg => rcases execReadReg_next ht with ⟨-, rfl⟩ | ⟨w, -, rfl⟩ <;> rfl
  | readBuf => rcases execReadBuf_next ht with ⟨-, rfl⟩ | ⟨w, -, rfl⟩ <;> rfl
  | txUpdate => exact execTxUpdate_rx ht
  | bidiByte => rcases execBidiByte_next ht with ⟨-, rfl⟩ | ⟨a, -, rfl⟩ <;> rfl

/-- R33: TX_UPDATE, BIDI_TAKE and INIT_TX alone change the flag of the return channel's snapshot. -/
theorem exec_keeps_bidi_ready {i : Instr} {s t : State} (ht : exec i s = .next t)
    (hop : i.op ∉ [.initTx, .bidiTake, .txUpdate]) : t.bidi.ready = s.bidi.ready := by
  cases i with
  | initTx | bidiTake | txUpdate => simp [Instr.op] at hop
  | packet => rcases execPacket_next ht with ⟨-, rfl⟩ | ⟨-, rfl⟩ <;> rfl
  | start => rcases execStart_next ht with ⟨-, rfl⟩ | ⟨-, rfl⟩ | ⟨-, rfl⟩ <;> rfl
  | stop => rcases execStop_next ht with ⟨-, rfl⟩ | ⟨-, rfl⟩ <;> rfl
  | setOvrMask | rxInit => cases ht; rfl
  | setOvrDelta sel => cases sel <;> cases ht <;> rfl
  | setBidiThreshold => rcases execSetBidiThreshold_next ht with ⟨-, rfl⟩ | ⟨-, rfl⟩ <;> rfl
  | rxTake => rcases execRxTake_next ht with ⟨-, rfl⟩ | ⟨-, rfl⟩ <;> rfl
  | readReg => rcases execReadReg_next ht with ⟨-, rfl⟩ | ⟨w, -, rfl⟩ <;> rfl
  | readBuf => rcases execReadBuf_next ht with ⟨-, rfl⟩ | ⟨w, -, rfl⟩ <;> rfl
  | rxCapture =>
    rcases execRxCapture_next ht with ⟨-, rfl⟩ | ⟨-, u, hu, rfl⟩
    · rfl
    · exact congrArg (·.ready) (captureStep_frame hu).bidi
  | bidiByte =>
    rcases execBidiByte_next ht with ⟨-, rfl⟩ | ⟨a, -, rfl⟩
    · rfl
    · simp only [finish_bidi, countByte]
      cases s.tx.pins.rcCh <;> rfl
  | rxBidiFire => rcases execRxBidiFire_next ht with ⟨-, rfl⟩ | ⟨-, rfl⟩ | ⟨-, rfl⟩ <;> rfl

section
variable {s t : State} (hi : Inv s)
include hi

/-- R154, R157: a Running engine's step writes the four regions of the transmit side only. -/
theorem txUpdate_sameOutside (ht : execTxUpdate s = .next t) : SameMemoryOutside TxAddress s t := by
  rcases execTxUpdate_next ht with
    ⟨-, rfl⟩ | ⟨-, rfl⟩ | ⟨-, rfl⟩ | ⟨hr, u, r, he, ⟨-, rfl⟩ | ⟨-, rfl⟩⟩
  case inr.inr.inr.inl =>
    obtain ⟨u', r', he', ha⟩ := emitAndAdvance_advances hi hr
    obtain ⟨rfl, -⟩ := Prod.mk.inj (he.symm.trans he')
    have hem : SameMemoryOutside TxAddress s (emitted s) := emit_sameOutside (s := loadActive s) hi.mem _
    cases ha with
    | halt | move => exact hem
    | latch => exact fun a hout => (enterFrame_sameOutside (emitted_wf hi) a hout).trans (hem a hout)
  all_goals exact fun _ _ => rfl

/-- R349: the operations of the transmit side write its four regions only. -/
theorem exec_txSide_sameOutside {i : Instr} (ht : exec i s = .next t) (hop : i.op ∉ [.rxInit, .rxCapture]) :
    SameMemoryOutside TxAddress s t := by
  cases i with
  | rxInit | rxCapture => simp [Instr.op] at hop
  | initTx np bidi invert trig b1 b0 =>
    rcases execInitTx_next ht with ⟨-, rfl⟩ | ⟨-, ⟨-, rfl⟩ | ⟨-, rfl⟩⟩
    · exact fun _ _ => rfl
    · exact configure_sameOutside hi.mem np bidi invert trig b1 b0
    · exact fun _ _ => rfl
  | packet =>
    rcases execPacket_next ht with ⟨-, rfl⟩ | ⟨-, rfl⟩
    · exact fun _ _ => rfl
    · exact fun a ha => Memory.read_fill_outside hi.mem _ (by decide) fun hin => ha (.inl hin)
  | start =>
    rcases execStart_next ht with ⟨-, rfl⟩ | ⟨-, rfl⟩ | ⟨-, rfl⟩
    · exact fun _ _ => rfl
    · exact fun _ _ => rfl
    · exact enterFrame_sameOutside hi.mem
  | stop => rcases execStop_next ht with ⟨-, rfl⟩ | ⟨-, rfl⟩ <;> exact fun _ _ => rfl
  | txUpdate => exact txUpdate_sameOutside hi ht
  | bidiByte =>
    rcases execBidiByte_next ht with ⟨-, rfl⟩ | ⟨a, ha, rfl⟩
    · exact fun _ _ => rfl
    · exact fun x hx => Memory.read_write_of_ne hi.mem _ fun e =>
        hx (.inr (.inr (.inl (e ▸ bidiStoreAddr_range ha))))
  | _ =>
    obtain ⟨-, hmem⟩ := exec_keeps_tx_mem ht (by simp [Instr.op])
    exact fun a _ => congrArg (·.read a) hmem

/-- R349: what the operations of the receive side leave alone. -/
theorem exec_rxSide_frame {i : Instr} (ht : exec i s = .next t)
    (hop : i.op ∈ [.rxInit, .rxTake, .rxCapture, .rxBidiFire]) :
    (t.tx = s.tx ∧ t.ovr = s.ovr ∧ t.bidi = s.bidi) ∧ SameMemoryOutside RxAddress s t := by
  cases i with
  | rxInit e => cases ht; exact ⟨⟨rfl, rfl, rfl⟩, rxRestart_sameOutside hi.mem e⟩
  | rxTake => rcases execRxTake_next ht with ⟨-, rfl⟩ | ⟨-, rfl⟩ <;> exact ⟨⟨rfl, rfl, rfl⟩, fun _ _ => rfl⟩
  | rxCapture ts =>
    rcases execRxCapture_next ht with ⟨-, rfl⟩ | ⟨hts, u, hu, rfl⟩
    · exact ⟨⟨rfl, rfl, rfl⟩, fun _ _ => rfl⟩
    · obtain ⟨-, htx, hovr, hbidi, -, -, -⟩ := captureStep_frame hu
      have hm := captureStep_sameOutside hi hts hu
      exact ⟨⟨htx, hovr, hbidi⟩, hm⟩
  | rxBidiFire =>
    rcases execRxBidiFire_next ht with ⟨-, rfl⟩ | ⟨-, rfl⟩ | ⟨-, rfl⟩ <;> exact ⟨⟨rfl, rfl, rfl⟩, fun _ _ => rfl⟩
  | _ => simp [Instr.op] at hop

end

/-- Settles O57: each side's operations keep the other side's fields and write none of its regions. -/
theorem sidesShareOnlyFault : Obligations.SidesShareOnlyFault := by
  unfold Obligations.SidesShareOnlyFault
  refine fun i s t hi ht => ⟨fun hop => ?_, fun hop => ?_⟩
  · have hne : i.op ∉ [.rxInit, .rxTake, .rxCapture, .rxBidiFire] := by
      rcases hop with h | h | h | h | h | h | h | h | h | h <;> rw [h] <;> decide
    have hm := exec_txSide_sameOutside hi ht fun hin => hne ((by decide : [Op.rxInit, .rxCapture] ⊆ _) hin)
    exact ⟨exec_keeps_rx ht hne, fun a ha => hm a fun htx => not_rxAddress_of_txAddress htx ha⟩
  · obtain ⟨⟨htx, hovr, hbidi⟩, hm⟩ := exec_rxSide_frame hi ht (by simpa using hop)
    exact ⟨htx, hovr, hbidi, fun a ha => hm a (not_rxAddress_of_txAddress ha)⟩

/-! ### Levels (R344) -/

/-- A level that is `a` before a step and `b` after it: `S` sets it, `C` clears it, and otherwise it is kept. -/
structure LevelChange (S C : Prop) (a b : Bool) : Prop where
  set : S → b = true
  clear : C → b = false
  keep : ¬ S → ¬ C → b = a

section
variable {S C : Prop} {a b : Bool}

theorem LevelChange.rise (h : LevelChange S C a b) (ha : a = false) (hb : b = true) : S := by
  by_contra hs
  have hc : ¬ C := fun hc => by simp [h.clear hc] at hb
  simp [h.keep hs hc, ha] at hb

theorem LevelChange.fall (h : LevelChange S C a b) (ha : a = true) (hb : b = false) : C := by
  by_contra hc
  have hs : ¬ S := fun hs => by simp [h.set hs] at hb
  simp [h.keep hs hc, ha] at hb

theorem levelChange_kept (hs : ¬ S) (hc : ¬ C) (h : b = a) : LevelChange S C a b :=
  ⟨fun h => absurd h hs, fun h => absurd h hc, fun _ _ => h⟩

theorem levelChange_set (hs : S) (hc : ¬ C) (h : b = true) : LevelChange S C a b :=
  ⟨fun _ => h, fun h => absurd h hc, fun h => absurd hs h⟩

theorem levelChange_cleared (hs : ¬ S) (hc : C) (h : b = false) : LevelChange S C a b :=
  ⟨fun h => absurd h hs, fun _ => h, fun _ h => absurd hc h⟩

end

/-! ### IRQ_RX: the ready slot under a capture (R202-R206) -/

/-- R206: a half of the class `one` is the first half of the end bit. -/
def EndsPacket (one : Bool) (s : State) : Prop :=
  one = true ∧ s.rx.st = .data ∧ s.rx.first = .none ∧ s.rx.bitcnt = 8

section
variable {s t : State} {one : Bool} {ts : Word} {d : Nat}

theorem packetEnd_ready (ts : Word) (d : Nat) (s : State) :
    (packetEnd ts d s).rx.ready = (rxAccepts s || s.rx.ready) := by
  cases ha : rxAccepts s with
  | true =>
    rw [packetEnd_of_accepts ha]
    exact (armOneShot_ready ts d (fillReady s)).1
  | false =>
    rw [packetEnd_of_rejects (by simp [ha])]
    rfl

theorem takeBit_ready (h : takeBit one s = .ok t) : t.rx.ready = s.rx.ready := by
  simp only [takeBit, storeByte] at h
  repeat' split at h
  all_goals cases h <;> rfl

/-- R205: of the data steps only the end of a packet can change `ready`. -/
theorem dataStep_ready (hst : s.rx.st = .data) (h : dataStep one ts d s = .ok t) :
    (EndsPacket one s ∧ t = packetEnd ts d s) ∨ (¬ EndsPacket one s ∧ t.rx.ready = s.rx.ready) := by
  unfold dataStep at h
  split at h
  · rename_i hf
    split at h
    · rename_i hend
      obtain ⟨h8, hone⟩ := hend
      refine .inl ⟨⟨hone, hst, hf, h8⟩, ?_⟩
      split at h
      · exact (Except.ok.inj h).symm
      · cases h
    · rename_i hend
      cases h
      exact .inr ⟨fun ⟨hone, _, _, h8⟩ => hend ⟨h8, hone⟩, rfl⟩
  · rename_i hf
    refine .inr ⟨fun ⟨_, _, hnone, _⟩ => hf hnone, ?_⟩
    repeat' split at h
    · cases h; rfl
    · cases h; rfl
    · exact takeBit_ready h

/-- R202: of the framing steps only the end of a packet can change `ready`. -/
theorem frameStep_ready (h : frameStep one ts d s = .ok t) :
    (EndsPacket one s ∧ t = packetEnd ts d s) ∨ (¬ EndsPacket one s ∧ t.rx.ready = s.rx.ready) := by
  have hno : s.rx.st ≠ .data → ¬ EndsPacket one s := fun hst ⟨_, hdata, _, _⟩ => hst hdata
  unfold frameStep at h
  split at h
  · rename_i hst
    cases h
    exact .inr ⟨hno (by simp [hst]), congrArg (·.ready) (huntStep_onlyFraming one s).rx⟩
  · rename_i hst
    cases h
    refine .inr ⟨hno (by simp [hst]), ?_⟩
    cases one <;> rfl
  · rename_i hst
    exact dataStep_ready hst h

/-- R206: a capture of a valid half accepts a packet when it ends one that has its checksum. -/
theorem acceptsPacket_iff (hts : ts.toNat < 2 ^ s.params.capBits) (hv : s.rx.tsValid = true)
    (hc : classify s.params (interval s ts) = if one then .one else .zero) :
    AcceptsPacket s ts ↔ EndsPacket one s ∧ rxAccepts s = true := by
  rw [rxAccepts_iff]
  constructor
  · rintro ⟨-, -, hst, hf, h8, hone, hok⟩
    refine ⟨⟨?_, hst, hf, h8⟩, hok⟩
    cases one
    · simp [hone] at hc
    · rfl
  · rintro ⟨⟨rfl, hst, hf, h8⟩, hok⟩
    exact ⟨hts, hv, hst, hf, h8, hc, hok⟩

/-- R202, R206: a capture that accepts a packet sets `ready`, and no other changes it. -/
theorem captureStep_ready (hts : ts.toNat < 2 ^ s.params.capBits) (h : captureStep ts s = .ok t) :
    LevelChange (AcceptsPacket s ts) False s.rx.ready t.rx.ready := by
  rcases captureStep_cases h with ⟨hv, rfl⟩ | ⟨-, hc, rfl⟩ | ⟨one, hv, hc, hf⟩
  · refine levelChange_kept ?_ not_false rfl
    rintro ⟨-, hvalid, -⟩
    simp [hv] at hvalid
  · refine levelChange_kept ?_ not_false rfl
    rintro ⟨-, -, -, -, -, hone, -⟩
    simp [hc] at hone
  · have hiff := acceptsPacket_iff hts hv hc
    rcases frameStep_ready hf with ⟨hend, rfl⟩ | ⟨hend, hready⟩
    · have hsame : rxAccepts (recordEdge ts s) = rxAccepts s := rfl
      rw [packetEnd_ready, hsame]
      cases ha : rxAccepts s with
      | true => exact levelChange_set (hiff.mpr ⟨hend, ha⟩) not_false rfl
      | false => exact levelChange_kept (fun hacc => by simp [(hiff.mp hacc).2] at ha) not_false rfl
    · exact levelChange_kept (fun hacc => hend (hiff.mp hacc).1) not_false hready

end

/-- R344: IRQ_RX is set by the RX_CAPTURE that accepts a packet and cleared by RX_TAKE and RX_INIT. -/
theorem exec_irqRx {i : Instr} {s t : State} (ht : exec i s = .next t) :
    LevelChange (∃ ts, i = .rxCapture ts ∧ AcceptsPacket s ts) (i.op = .rxTake ∨ i.op = .rxInit)
      (irqRx s) (irqRx t) := by
  cases i with
  | rxInit => cases ht; exact levelChange_cleared (by simp) (.inr rfl) rfl
  | rxTake =>
    refine levelChange_cleared (by simp) (.inl rfl) ?_
    rcases execRxTake_next ht with ⟨hr, rfl⟩ | ⟨-, rfl⟩
    · exact hr
    · rfl
  | rxCapture ts =>
    have hclear : ¬ ((Instr.rxCapture ts).op = .rxTake ∨ (Instr.rxCapture ts).op = .rxInit) := by simp [Instr.op]
    rcases execRxCapture_next ht with ⟨hts, rfl⟩ | ⟨hts, u, hu, rfl⟩
    · refine levelChange_kept ?_ hclear rfl
      rintro ⟨_, ⟨⟩, hlt, -⟩
      omega
    · obtain ⟨hset, -, hkeep⟩ := captureStep_ready hts hu
      refine ⟨?_, fun h => absurd h hclear, fun hno _ => hkeep (fun ha => hno ⟨ts, rfl, ha⟩) not_false⟩
      rintro ⟨_, ⟨⟩, ha⟩
      exact hset ha
  | rxBidiFire =>
    refine levelChange_kept (by simp) (by simp [Instr.op]) ?_
    rcases execRxBidiFire_next ht with ⟨-, rfl⟩ | ⟨-, rfl⟩ | ⟨-, rfl⟩ <;> rfl
  | _ =>
    exact levelChange_kept (by simp) (by simp [Instr.op]) (congrArg (·.ready) (exec_keeps_rx ht (by simp [Instr.op])))

/-! ### IRQ_BIDI: the snapshot (R154, R254) -/

/-- R154: BiDiEnd, and no other slot, sets `ready`. -/
theorem emitted_ready (s : State) :
    (emitted s).bidi.ready = (decide (s.tx.cursor.phase = .bidiEnd) || s.bidi.ready) := by
  rw [emit_bidi]
  cases s.tx.cursor.phase <;> rfl

/-- R154: the TX_UPDATE that emits BiDiEnd sets `ready`, and no other changes it. -/
theorem execTxUpdate_ready {s t : State} (ht : execTxUpdate s = .next t) :
    LevelChange (s.tx.run = .running ∧ s.tx.cursor.phase = .bidiEnd ∧ t.out.kind = .done) False s.bidi.ready
      t.bidi.ready := by
  rcases execTxUpdate_next ht with
    ⟨hr, rfl⟩ | ⟨hr, rfl⟩ | ⟨hr, rfl⟩ | ⟨hr, u, r, he, ⟨-, rfl⟩ | ⟨-, rfl⟩⟩
  case inr.inr.inr.inl =>
    obtain ⟨-, -, hbidi⟩ := emitAndAdvance_frame he
    rw [setReload_bidi, hbidi, emitted_ready]
    by_cases hph : s.tx.cursor.phase = .bidiEnd
    · exact levelChange_set ⟨hr, hph, rfl⟩ not_false (by simp [hph])
    · exact levelChange_kept (fun h => hph h.2.1) not_false (by simp [hph])
  case inr.inr.inr.inr => exact levelChange_kept (by simp) not_false rfl
  all_goals exact levelChange_kept (by simp [hr]) not_false rfl

/-- R344: IRQ_BIDI is set by the TX_UPDATE at BiDiEnd and cleared by BIDI_TAKE and by an INIT_TX that is done. -/
theorem exec_irqBidi {i : Instr} {s t : State} (ht : exec i s = .next t) :
    LevelChange (i.op = .txUpdate ∧ s.tx.run = .running ∧ s.tx.cursor.phase = .bidiEnd ∧ t.out.kind = .done)
      (i.op = .bidiTake ∨ (i.op = .initTx ∧ t.out.kind = .done)) (irqBidi s) (irqBidi t) := by
  cases i with
  | txUpdate =>
    obtain ⟨hset, -, hkeep⟩ := execTxUpdate_ready ht
    exact ⟨fun h => hset h.2, by simp [Instr.op], fun hno _ => hkeep (fun h => hno ⟨rfl, h⟩) not_false⟩
  | bidiTake =>
    refine levelChange_cleared (by simp [Instr.op]) (.inl rfl) ?_
    rcases execBidiTake_next ht with ⟨hr, rfl⟩ | ⟨-, rfl⟩
    · exact hr
    · rfl
  | initTx =>
    rcases execInitTx_next ht with ⟨-, rfl⟩ | ⟨-, ⟨-, rfl⟩ | ⟨-, rfl⟩⟩
    · exact levelChange_kept (by simp [Instr.op]) (by simp [Instr.op]) rfl
    · exact levelChange_cleared (by simp [Instr.op]) (.inr ⟨rfl, rfl⟩) rfl
    · exact levelChange_kept (by simp [Instr.op]) (by simp [Instr.op]) rfl
  | _ =>
    exact levelChange_kept (by simp [Instr.op]) (by simp [Instr.op]) (exec_keeps_bidi_ready ht (by simp [Instr.op]))

/-! ### IRQ_FAULT (R330) -/

theorem FaultCode.code_ne_zero (c : FaultCode) : c.code ≠ 0 := by cases c <;> decide

theorem irqFault_raise (c : FaultCode) (s : State) : irqFault (raise c s) = true := by
  rw [irqFault, decide_eq_true_eq, raise_fault]
  split
  · exact c.code_ne_zero
  · assumption

/-- R344: IRQ_FAULT is set by a fault, and never cleared. -/
theorem exec_irqFault {i : Instr} {s t : State} (ht : exec i s = .next t) :
    LevelChange (∃ c, t.out.kind = .faulted c) False (irqFault s) (irqFault t) := by
  rcases exec_cases ht with ⟨c, -, rfl⟩ | ⟨-, -, rfl⟩ | h
  · exact levelChange_set ⟨c, rfl⟩ not_false (irqFault_raise c s)
  · exact levelChange_set ⟨_, rfl⟩ not_false (irqFault_raise _ _)
  · exact levelChange_kept (fun ⟨c, hk⟩ => h.kind c hk) not_false (by rw [irqFault, irqFault, h.fault])

/-- Settles O56: each indication is a level with its own setting and clearing operations. -/
theorem indicationsChangeOnlyByTheirOperations : Obligations.IndicationsChangeOnlyByTheirOperations := by
  unfold Obligations.IndicationsChangeOnlyByTheirOperations
  refine ⟨fun s => ⟨rfl, rfl, decide_eq_true_iff⟩, fun i s t ht => ?_⟩
  have hrx := exec_irqRx ht
  have hbidi := exec_irqBidi ht
  have hfault := exec_irqFault ht
  exact ⟨fun ts hi ha => hrx.set ⟨ts, hi, ha⟩, hrx.clear, fun hop hr hph hk => hbidi.set ⟨hop, hr, hph, hk⟩,
    hbidi.clear, fun c hk => hfault.set ⟨c, hk⟩, hrx.rise, hrx.fall, hbidi.rise, hbidi.fall,
    fun ha => Bool.eq_true_of_not_eq_false fun hb => hfault.fall ha hb, hfault.rise⟩

end Sys2Proof.Machine
end

section
/-! SUPPORT. A pending STOP (41_tx_engine.md R161, R162, 70_reset_and_hazards.md R378): the slots a frame has left, and
how many TX_UPDATEs walk through them into Stopped. -/

namespace Sys2Proof.Machine

/-! ### The slots a frame has left -/

/-- The end of a list that is walked through is walked through. -/
theorem WalksTo.of_append {next : Cursor → Option Cursor} {l l' : List Cursor} {e : Option Cursor}
    (h : WalksTo next (l ++ l') e) : WalksTo next l' e := by
  induction l with
  | nil => exact h
  | cons c rest ih => exact ih h.2

theorem mem_bothHalves (ph : Phase) (j k : Byte) (half : Bool) :
    ({ phase := ph, byteIdx := j, bitIdx := k, half := half } : Cursor) ∈ bothHalves ph j.toNat k.toNat := by
  cases half <;> simp [bothHalves]

/-- R24, R150: a cursor of the invariant is one of the slots of its frame. -/
theorem CursorOk.mem_frameSlots {cfg : TxCfg} {n : Byte} {c : Cursor} (hc : CursorOk cfg n c) :
    c ∈ frameSlots cfg.np.toNat n.toNat cfg.bidi := by
  rw [frameSlots_eq]
  simp only [List.mem_append, List.mem_flatMap, List.mem_range]
  obtain ⟨ph, j, k, half⟩ := c
  cases ph
  case preamble =>
    obtain ⟨rfl, hk⟩ := hc
    exact .inl (.inl (.inl ⟨k.toNat, hk, mem_bothHalves .preamble 0 k half⟩))
  case data =>
    obtain ⟨hj, hk, hend⟩ := hc
    rcases Nat.lt_or_eq_of_le hj with hlt | heq
    · have hbit := mem_bothHalves .data j k half
      have hbyte := List.mem_flatMap.mpr ⟨k.toNat, List.mem_range.mpr (Nat.lt_succ_of_le hk), hbit⟩
      exact .inl (.inl (.inr ⟨j.toNat, hlt, hbyte⟩))
    · obtain rfl : j = n := BitVec.eq_of_toNat_eq heq
      obtain rfl : k = 0 := hend rfl
      exact .inl (.inr (mem_bothHalves .data j 0 half))
  all_goals
    obtain ⟨hbidi, rfl, rfl, rfl⟩ := hc
    exact .inr (by simp [cutoutSlotsOf, cutoutPhases, hbidi])

/-- R150, R152: from a cursor of the invariant `next_slot` walks through the rest of the frame. -/
theorem CursorOk.walksTo {cfg : TxCfg} {n : Byte} {c : Cursor} (hc : CursorOk cfg n c) (hnp : 1 ≤ cfg.np.toNat) :
    ∃ rest, rest.length + 1 ≤ frameLength cfg.np.toNat n.toNat cfg.bidi ∧
      WalksTo (nextSlot cfg n) (c :: rest) none := by
  obtain ⟨before, rest, hsplit⟩ := List.append_of_mem hc.mem_frameSlots
  have hlength := length_frameSlots cfg.np.toNat n.toNat cfg.bidi
  have hwalk := walksTo_frameSlots (cfg := cfg) (n := n) hnp
  rw [hsplit] at hlength hwalk
  refine ⟨rest, ?_, hwalk.of_append⟩
  rw [frameLength, ← hlength, List.length_append, List.length_cons]
  omega

/-! ### The steps of an engine with a STOP pending -/

/-- R378: at most `k` TX_UPDATEs bring the engine to Stopped, with every output off. -/
def StopsWithin (k : Nat) (s : State) : Prop :=
  ∃ j t, j ≤ k ∧ execAll (List.replicate j .txUpdate) s = .next t ∧ t.tx.run = .stopped ∧ t.tx.pins = .off

theorem StopsWithin.mono {k m : Nat} {s : State} (h : StopsWithin k s) (hkm : k ≤ m) : StopsWithin m s := by
  obtain ⟨j, t, hj, ht⟩ := h
  exact ⟨j, t, hj.trans hkm, ht⟩

theorem stopsWithin_zero {s : State} (hr : s.tx.run = .stopped) (hp : s.tx.pins = .off) : StopsWithin 0 s :=
  ⟨0, s, le_rfl, rfl, hr, hp⟩

theorem StopsWithin.after_txUpdate {k : Nat} {s t : State} (ht : execTxUpdate s = .next t) (h : StopsWithin k t) :
    StopsWithin (k + 1) s := by
  obtain ⟨j, u, hj, hu, hend⟩ := h
  exact ⟨j + 1, u, Nat.succ_le_succ hj, (execAll_cons_of_next (i := .txUpdate) ht).trans hu, hend⟩

/-- R162: a Halting engine stops at its next TX_UPDATE. -/
theorem stopsWithin_of_halting {s : State} (hr : s.tx.run = .halting) : StopsWithin 1 s := by
  have ht : execTxUpdate s = .next (finish (stopEngine (loadActive s))) := by simp only [execTxUpdate, hr]
  exact .after_txUpdate ht (stopsWithin_zero rfl rfl)

/-- R338: a RELOAD_RANGE fault stops the engine at once. -/
theorem stopsWithin_of_reloadOutOfRange {s : State} (h : ReloadOutOfRange s) : StopsWithin 1 s :=
  .after_txUpdate (execTxUpdate_of_reloadOutOfRange h) (stopsWithin_zero rfl rfl)

/-- R162, R378: one TX_UPDATE for each slot the frame has left, and one more that leaves Halting; a RELOAD_RANGE fault on
the way only makes it shorter. -/
theorem stopsWithin_of_walksTo {s : State} (hi : Inv s) (hr : s.tx.run = .running) (hs : s.tx.stopReq = true)
    {rest : List Cursor} (hw : WalksTo (nextSlot s.tx.cfg s.tx.actLen) (s.tx.cursor :: rest) none) :
    StopsWithin (rest.length + 2) s := by
  induction rest generalizing s with
  | nil =>
    obtain ⟨hn, -⟩ := hw
    have ht := (Advances.halt hn hs).execTxUpdate hi hr (reloadOk_bit1Ticks hi (by simp [hr]))
    exact .after_txUpdate ht (stopsWithin_of_halting rfl)
  | cons c rest ih =>
    obtain ⟨hn, hw⟩ := hw
    obtain ⟨u, r, he, ha⟩ := emitAndAdvance_advances hi hr
    cases hrange : reloadOk s.params r with
    | false => exact (stopsWithin_of_reloadOutOfRange ⟨hr, u, r, he, hrange⟩).mono (by omega)
    | true =>
      have ht := ha.execTxUpdate hi hr hrange
      cases ha with
      | halt hn' | latch hn' => simp [hn] at hn'
      | move hn' =>
        obtain rfl := Option.some.inj (hn.symm.trans hn')
        exact .after_txUpdate ht (ih (inv_txUpdate hi ht) (by simpa using hr) (by simpa using hs) (by simpa using hw))

/-- Settles O28: the cursor stands at a slot of the frame, and the engine stops one TX_UPDATE after the rest of it. -/
theorem stopTakesAtMostOneFrame : Obligations.StopTakesAtMostOneFrame := by
  unfold Obligations.StopTakesAtMostOneFrame
  intro s hi hr hs
  have hnp := (hi.tx.cfg (by simp [hr])).np_pos hi.params
  obtain ⟨rest, hlen, hw⟩ := (hi.cursorOk hr).walksTo hnp
  exact (stopsWithin_of_walksTo hi hr hs hw).mono (by omega)

end Sys2Proof.Machine
end

section
/-! SUPPORT. The state after reset (70_reset_and_hazards.md R370). -/

namespace Sys2Proof.Machine

/-- R370: every field of a register is 0 after reset, and so is its code. -/
theorem reg_resetWith {p : Params} {n : Byte} {w : Word} (h : reg (State.resetWith p) n = some w) : w = 0 := by
  unfold reg at h
  split at h
  case h_21 => cases h
  all_goals
    obtain rfl := Option.some.inj h
    simp [regTxCtrl, regTxBitUs, regTxCursor, regTxOut, regBidiStatus, regRxCtrl, regRxAcc, dacOut, State.resetWith,
      Tx.reset, Rx.reset, Cursor.first, Pins.off, RunState.code, Phase.code, Channel.code, RxState.code, FirstHalf.code,
      OneShot.code]

/-- R61: clearing a region of zeros stores nothing. -/
theorem Memory.clear_empty (base len : Nat) : Memory.clear { cells := [] } base len = { cells := [] } := by
  unfold Memory.clear
  induction len with
  | zero => rfl
  | succ len ih => simp [Memory.fill, ih, Memory.write, writeCells]

/-- R201, R370: RX_INIT with `bidi_en = 0` after reset gives back what reset left. -/
theorem rxRestart_resetWith (p : Params) : rxRestart false (State.resetWith p) = State.resetWith p := by
  simp only [rxRestart, huntReset, State.resetWith, Memory.clear_empty, Rx.reset]

/-- Settles O8: an assigned register holds a word, which is 0 after reset; the rest is read off the reset state. -/
theorem resetStateReadsZero : Obligations.ResetStateReadsZero := by
  unfold Obligations.ResetStateReadsZero
  intro p _
  refine ⟨fun n hn => ?registers, fun _ => rfl, rfl, rfl, rfl, rfl, rfl, rfl, rfl, rfl,
    finish (State.resetWith p), ?rxInit, rfl, rfl⟩
  case registers =>
    obtain ⟨w, hw⟩ := Option.isSome_iff_exists.mp (reg_isSome_iff.mpr hn)
    rw [hw, reg_resetWith hw]
  case rxInit => rw [exec, execRxInit, rxRestart_resetWith]

/-- Settles O59: where every run of the invariant begins. -/
theorem resetMeetsInvariant : Obligations.ResetMeetsInvariant := by
  unfold Obligations.ResetMeetsInvariant
  exact fun _ hp => inv_resetWith hp

end Sys2Proof.Machine
end
